-- ==== Sys2Proof/Word.lean ====
section
/-! DEFINITION. The word types of the MrBlinky/Arduboy flash engine (`00_scope.md` R8: a byte is 8 bits, bit 0 the
least significant) and the concatenations `a :: b` of R8, `a` in the more significant bits. -/

namespace Sys2Proof

/-- A byte (`00_scope.md` R8). -/
abbrev Byte := BitVec 8

/-- A page number (`00_scope.md` R6, PAGE_BITS). -/
abbrev Page := BitVec 16

/-- A physical flash address or a logical offset (`00_scope.md` R6, ADDR_BITS). -/
abbrev Addr := BitVec 24

/-- A command word (`30_encoding.md` R94). -/
abbrev CmdWord := BitVec 80

/-- A response value (`30_encoding.md` R96). -/
abbrev Resp := BitVec 32

/-- A coordinate operand or a header field, read as a signed number where it is used (`30_encoding.md` R99). -/
abbrev Half := BitVec 16

end Sys2Proof
end

