-- ==== Sys2Proof/Config.lean ====
section
/-! DEFINITION. What is fixed for the life of a machine: the constants of `00_scope.md` R6, the parameters of R7
(`10_state.md` R38: "configuration: fixed for the life of a model, never written by any rule"), and the free value
`any8` of R9. -/

namespace Sys2Proof

/-- OP_RELEASE_PD (`00_scope.md` R6). -/
def WireOp.releasePd : Byte := 0xAB
/-- OP_POWER_DOWN (`00_scope.md` R6). -/
def WireOp.powerDown : Byte := 0xB9
/-- OP_WRITE_ENABLE (`00_scope.md` R6). -/
def WireOp.writeEnable : Byte := 0x06
/-- OP_READ (`00_scope.md` R6). -/
def WireOp.read : Byte := 0x03
/-- The value the document gives OP_WRITE (`00_scope.md` R6, note; `90_conflicts.md` C8): the default of the parameter. -/
def WireOp.write : Byte := 0x04
/-- OP_ERASE (`00_scope.md` R6). -/
def WireOp.erase : Byte := 0x20
/-- OP_JEDEC_ID (`00_scope.md` R6). -/
def WireOp.jedecId : Byte := 0x9F
/-- OP_READ_STATUS1 (`00_scope.md` R6). -/
def WireOp.readStatus1 : Byte := 0x05
/-- OP_READ_STATUS2 (`00_scope.md` R6). -/
def WireOp.readStatus2 : Byte := 0x35

/-- The eight wire opcodes other than OP_WRITE, whose value is a parameter. -/
def WireOp.others : List Byte :=
  [WireOp.releasePd, WireOp.powerDown, WireOp.writeEnable, WireOp.read, WireOp.erase, WireOp.jedecId,
   WireOp.readStatus1, WireOp.readStatus2]

/-- KEY, the page-assignment magic key (`00_scope.md` R6). -/
def pageKey : BitVec 16 := 0x9518

/-- PAGE_BYTES (`00_scope.md` R6). -/
def pageBytes : Nat := 256

/-- DUMMY, the byte sent to clock a data byte in (`00_scope.md` R7). -/
def dummyByte : Byte := 0x00

/-- BOTTOM_MASK_VARIANT (`00_scope.md` R7; `43_blitter.md` R189). -/
inductive BottomMask where
  /-- the mask that covers the valid pixels, the spec's default -/
  | validRows
  /-- the document's formula as written -/
  | asWritten
  deriving DecidableEq, Repr

/-- The order in which the two bytes of a key slot make its 16-bit value. The spec gives none (`20_memory.md` R53), so it
is a parameter (log 12). -/
inductive ByteOrder where
  | little
  | big
  deriving DecidableEq, Repr

/-- The parameters of `00_scope.md` R6 and R7, and two of the model's own (`pmKeyOrder`, log 12; `strict`, log 14). -/
structure Config where
  /-- DISPLAY_W, pixels -/
  displayW : Nat
  /-- DISPLAY_H, pixels -/
  displayH : Nat
  /-- FLASH_BYTES -/
  flashBytes : Nat
  /-- ERASE_BLOCK_BYTES -/
  eraseBlockBytes : Nat
  /-- PM_DATA_KEY, a byte offset in program memory -/
  pmDataKey : Nat
  /-- PM_DATA_PAGE -/
  pmDataPage : Nat
  /-- PM_SAVE_KEY -/
  pmSaveKey : Nat
  /-- PM_SAVE_PAGE -/
  pmSavePage : Nat
  /-- the byte order of a key slot (log 12) -/
  pmKeyOrder : ByteOrder
  /-- OP_WRITE -/
  opWrite : Byte
  /-- BOTTOM_MASK_VARIANT -/
  bottomMask : BottomMask
  /-- BUS_OK: whether the SHIFTER step is ever enabled -/
  busOk : Bool
  /-- whether the flash part enforces the contracts of `20_memory.md` R78 (log 14) -/
  strict : Bool
  deriving DecidableEq, Repr

/-- The defaults of `00_scope.md` R7 (log 13; `pmKeyOrder` log 12, `strict` log 14). -/
def Config.default : Config where
  displayW := 128
  displayH := 64
  flashBytes := 16777216
  eraseBlockBytes := 4096
  pmDataKey := 0x0014
  pmDataPage := 0x0016
  pmSaveKey := 0x0018
  pmSavePage := 0x001A
  pmKeyOrder := .little
  opWrite := WireOp.write
  bottomMask := .validRows
  busOk := true
  strict := false

/-- A power of two that is at most 2^24: the range that `00_scope.md` R7 gives FLASH_BYTES. -/
def isPowerOfTwo (n : Nat) : Bool := (List.range 25).any fun k => n == 2 ^ k

/-- The ranges that `00_scope.md` R7 and `20_memory.md` R53 give the parameters. Two bounds are the model's own: R7 gives
ERASE_BLOCK_BYTES no upper bound, and the model takes 2^24 (DESIGN CHOICE, log 33); OP_WRITE is told apart from the other
eight wire opcodes (DEDUCED, log 13). -/
def Config.wf (c : Config) : Bool :=
  (decide (1 ≤ c.displayW) && decide (c.displayW ≤ 32767)) &&
  (decide (0 < c.displayH) && decide (c.displayH % 8 = 0)) &&
  isPowerOfTwo c.flashBytes &&
  (isPowerOfTwo c.eraseBlockBytes && decide (c.eraseBlockBytes % 256 = 0)) &&
  (decide (c.pmDataPage = c.pmDataKey + 2) && decide (c.pmSavePage = c.pmSaveKey + 2)) &&
  !(WireOp.others.contains c.opWrite)

/-- `FB` holds `DISPLAY_W * (DISPLAY_H / 8)` bytes (`20_memory.md` R52). -/
def Config.fbBytes (c : Config) : Nat := c.displayW * (c.displayH / 8)

/-- `any8` (`00_scope.md` R9; `93_implementation_defined.md`): the k-th draw of a run, a free 8-bit value under no law. It
has no body, so no proof can know a draw (log 5). -/
opaque any8 : Nat → Byte

end Sys2Proof
end

