-- ==== Sys2Proof/Syntax.lean ====
section
/-! DEFINITION. The instructions: the 26 host commands of `30_encoding.md` R100 and the 9 wire opcodes of R101, one
constructor per row of the opcode table, and the two forms in which an instruction is given (R90). -/

namespace Sys2Proof

/-- One constructor per row of the opcode table. A payload or a run of dummy bytes is a list; `Instr.wf` (WellFormed.lean)
says which lists the encodings admit. -/
inductive Instr where
  /-- SELECT (R120) -/
  | select
  /-- DESELECT (R121) -/
  | deselect
  /-- TRANSFER byte (R122) -/
  | transfer (byte : Byte)
  /-- WRITECMD opcode (R130) -/
  | writecmd (opcode : Byte)
  /-- SEEK opcode, addr (R131) -/
  | seek (opcode : Byte) (addr : Addr)
  /-- BEGINREAD addr (R132) -/
  | beginread (addr : Addr)
  /-- READPENDING (R133) -/
  | readpending
  /-- READLAST (R134) -/
  | readlast
  /-- READPENDING16 (R135) -/
  | readpending16
  /-- READPENDING24 (R136) -/
  | readpending24
  /-- READPENDING32 (R137) -/
  | readpending32
  /-- READLAST16 (R138) -/
  | readlast16
  /-- READLAST24 (R139) -/
  | readlast24
  /-- READLAST32 (R140) -/
  | readlast32
  /-- WRITEENABLE (R141) -/
  | writeenable
  /-- WAKE (R142) -/
  | wake
  /-- SLEEP (R143) -/
  | sleep
  /-- ERASEBLOCK addr (R144) -/
  | eraseblock (addr : Addr)
  /-- WRITEPAGE addr, data (R145) -/
  | writepage (addr : Addr) (data : List Byte)
  /-- INIT devDataPage, devSavePage (R160) -/
  | init (devDataPage devSavePage : Page)
  /-- SEEKDATA offset (R161) -/
  | seekdata (offset : Addr)
  /-- SEEKSAVE offset (R162) -/
  | seeksave (offset : Addr)
  /-- SEEKDATAARRAY index, elementSize, extraOffset (R163) -/
  | seekdataarray (index elementSize : Byte) (extraOffset : Addr)
  /-- ERASESAVEBLOCK logicalPage (R164) -/
  | erasesaveblock (logicalPage : Page)
  /-- WRITESAVEPAGE logicalPage, data (R165) -/
  | writesavepage (logicalPage : Page) (data : List Byte)
  /-- DRAWBITMAP x, y, addr, frame, mode (R180) -/
  | drawbitmap (x y : Half) (addr : Addr) (frame mode : Byte)
  /-- the wire frame OP_RELEASE_PD (R75) -/
  | opReleasePd
  /-- the wire frame OP_POWER_DOWN (R75) -/
  | opPowerDown
  /-- the wire frame OP_WRITE_ENABLE (R72) -/
  | opWriteEnable
  /-- the wire frame OP_READ, address, dummy bytes (R71) -/
  | opRead (addr : Addr) (dummies : List Byte)
  /-- the wire frame OP_WRITE, address, payload (R73) -/
  | opWrite (addr : Addr) (data : List Byte)
  /-- the wire frame OP_ERASE, address (R74) -/
  | opErase (addr : Addr)
  /-- the wire frame OP_JEDEC_ID, dummy bytes (R76) -/
  | opJedecId (dummies : List Byte)
  /-- the wire frame OP_READ_STATUS1, dummy bytes (R76) -/
  | opReadStatus1 (dummies : List Byte)
  /-- the wire frame OP_READ_STATUS2, dummy bytes (R76) -/
  | opReadStatus2 (dummies : List Byte)
  deriving DecidableEq, Repr

/-- The two encodings of `30_encoding.md` R90. -/
inductive Encoded where
  /-- a command word, with the payload bytes that follow it on the command port (R94, R104) -/
  | command (word : CmdWord) (payload : List Byte)
  /-- a wire frame: the bytes between `S` and the next `D` (R91 to R93) -/
  | frame (bytes : List Byte)
  deriving DecidableEq, Repr

/-- Why an encoding names no instruction. -/
inductive DecodeError where
  /-- an OP value outside `30_encoding.md` R100 (R102) -/
  | reservedCommand (op : Byte)
  /-- a command word with another number of payload bytes than R104 gives its OP (log 24) -/
  | payloadLength (op : Byte) (count : Nat)
  /-- a frame with no byte: it names no opcode -/
  | emptyFrame
  /-- a frame whose first byte is none of the nine opcodes of R101 (`20_memory.md` R77) -/
  | unknownWireOpcode (byte : Byte)
  /-- a frame of another length than R91 and R92 give its opcode (log 4) -/
  | frameLength (opcode : Byte) (count : Nat)
  deriving DecidableEq, Repr

end Sys2Proof
end

