-- ==== Sys2Proof/Decode.lean ====
section
/-! DEFINITION. The decoder and the encoder of `30_encoding.md`. Command words: R94, R95, R100; wire frames: R91 to R93,
R101. The wire decoder and encoder take the value of the parameter OP_WRITE (`00_scope.md` R6, note). -/

namespace Sys2Proof

/-! ## Fields of a command word (R94, R95) -/

/-- OP, bits 79:72. -/
def CmdWord.op (w : CmdWord) : Byte := BitVec.extractLsb' 72 8 w
/-- `byte` or `opcode` of format B, `mode` of format D: bits 7:0. -/
def CmdWord.byte0 (w : CmdWord) : Byte := BitVec.extractLsb' 0 8 w
/-- `frame` of format D: bits 15:8. -/
def CmdWord.byte1 (w : CmdWord) : Byte := BitVec.extractLsb' 8 8 w
/-- `opcode` of format OA, `elementSize` of format X: bits 31:24. -/
def CmdWord.byte3 (w : CmdWord) : Byte := BitVec.extractLsb' 24 8 w
/-- `index` of format X: bits 39:32. -/
def CmdWord.byte4 (w : CmdWord) : Byte := BitVec.extractLsb' 32 8 w
/-- `addr` of formats A and OA, `extraOffset` of format X: bits 23:0. -/
def CmdWord.addr (w : CmdWord) : Addr := BitVec.extractLsb' 0 24 w
/-- `logicalPage` of format P, `devSavePage` of format I: bits 15:0. -/
def CmdWord.page0 (w : CmdWord) : Page := BitVec.extractLsb' 0 16 w
/-- `devDataPage` of format I: bits 31:16. -/
def CmdWord.page1 (w : CmdWord) : Page := BitVec.extractLsb' 16 16 w
/-- `x` of format D: bits 71:56. -/
def CmdWord.drawX (w : CmdWord) : Half := BitVec.extractLsb' 56 16 w
/-- `y` of format D: bits 55:40. -/
def CmdWord.drawY (w : CmdWord) : Half := BitVec.extractLsb' 40 16 w
/-- `addr` of format D: bits 39:16. -/
def CmdWord.drawAddr (w : CmdWord) : Addr := BitVec.extractLsb' 16 24 w

/-! ## Decoding -/

/-- A command without a payload (R104: only the two page writes are followed by one). -/
def bareCommand (op : Byte) (payload : List Byte) (i : Instr) : Except DecodeError Instr :=
  if payload.isEmpty then .ok i else .error (.payloadLength op payload.length)

/-- A command followed by exactly 256 payload bytes (R104). -/
def pagedCommand (op : Byte) (payload : List Byte) (i : Instr) : Except DecodeError Instr :=
  if payload.length = pageBytes then .ok i else .error (.payloadLength op payload.length)

/-- The command decoder: OP selects the row of R100; unused bits of the operand field are ignored (R103); any other OP is
reserved (R102). -/
def decodeCommand (w : CmdWord) (payload : List Byte) : Except DecodeError Instr :=
  let bare := bareCommand w.op payload
  let paged := pagedCommand w.op payload
  match w.op.toNat with
  | 0x01 => bare .select
  | 0x02 => bare .deselect
  | 0x03 => bare (.transfer w.byte0)
  | 0x10 => bare (.writecmd w.byte0)
  | 0x11 => bare (.seek w.byte3 w.addr)
  | 0x12 => bare (.beginread w.addr)
  | 0x13 => bare .readpending
  | 0x14 => bare .readlast
  | 0x15 => bare .readpending16
  | 0x16 => bare .readpending24
  | 0x17 => bare .readpending32
  | 0x18 => bare .readlast16
  | 0x19 => bare .readlast24
  | 0x1A => bare .readlast32
  | 0x1B => bare .writeenable
  | 0x1C => bare .wake
  | 0x1D => bare .sleep
  | 0x1E => bare (.eraseblock w.addr)
  | 0x1F => paged (.writepage w.addr payload)
  | 0x20 => bare (.init w.page1 w.page0)
  | 0x21 => bare (.seekdata w.addr)
  | 0x22 => bare (.seeksave w.addr)
  | 0x23 => bare (.seekdataarray w.byte4 w.byte3 w.addr)
  | 0x24 => bare (.erasesaveblock w.page0)
  | 0x25 => paged (.writesavepage w.page0 payload)
  | 0x30 => bare (.drawbitmap w.drawX w.drawY w.drawAddr w.byte1 w.byte0)
  | _ => .error (.reservedCommand w.op)

/-- Frame W1: the opcode alone (R91). -/
def frameW1 (opcode : Byte) (rest : List Byte) (i : Instr) : Except DecodeError Instr :=
  match rest with
  | [] => .ok i
  | _ :: _ => .error (.frameLength opcode (rest.length + 1))

/-- Frame W4: the opcode and the three address bytes, the most significant first (R92, R98), and then what `mk` takes. -/
def frameW4 (opcode : Byte) (rest : List Byte) (mk : Addr → List Byte → Except DecodeError Instr) :
    Except DecodeError Instr :=
  match rest with
  | a2 :: a1 :: a0 :: more => mk (a2 ++ a1 ++ a0) more
  | _ => .error (.frameLength opcode (rest.length + 1))

/-- The wire decoder of R101 for the value `opw` of OP_WRITE. -/
def decodeFrame (opw : Byte) (bytes : List Byte) : Except DecodeError Instr :=
  match bytes with
  | [] => .error .emptyFrame
  | opcode :: rest =>
    if opcode = WireOp.releasePd then frameW1 opcode rest .opReleasePd
    else if opcode = WireOp.powerDown then frameW1 opcode rest .opPowerDown
    else if opcode = WireOp.writeEnable then frameW1 opcode rest .opWriteEnable
    else if opcode = WireOp.read then frameW4 opcode rest fun a more => .ok (.opRead a more)
    else if opcode = WireOp.erase then
      frameW4 opcode rest fun a more =>
        match more with
        | [] => .ok (.opErase a)
        | _ :: _ => .error (.frameLength opcode (more.length + 4))
    else if opcode = WireOp.jedecId then .ok (.opJedecId rest)
    else if opcode = WireOp.readStatus1 then .ok (.opReadStatus1 rest)
    else if opcode = WireOp.readStatus2 then .ok (.opReadStatus2 rest)
    else if opcode = opw then frameW4 opcode rest fun a more => .ok (.opWrite a more)
    else .error (.unknownWireOpcode opcode)

/-- The two decoders of R90. -/
def decode (opw : Byte) : Encoded → Except DecodeError Instr
  | .command w payload => decodeCommand w payload
  | .frame bytes => decodeFrame opw bytes

/-! ## Encoding -/

/-- A command word: OP in bits 79:72, the operand field below it, unused bits 0 (R94, R103). -/
def commandWord (op : Byte) (operands : BitVec 72) : CmdWord := op ++ operands

/-- Format B. -/
def formatB (byte : Byte) : BitVec 72 := (0 : BitVec 64) ++ byte
/-- Formats A and AP. -/
def formatA (addr : Addr) : BitVec 72 := (0 : BitVec 48) ++ addr
/-- Format OA. -/
def formatOA (opcode : Byte) (addr : Addr) : BitVec 72 := (0 : BitVec 40) ++ opcode ++ addr
/-- Format X. -/
def formatX (index elementSize : Byte) (extraOffset : Addr) : BitVec 72 :=
  (0 : BitVec 32) ++ index ++ elementSize ++ extraOffset
/-- Formats P and PP. -/
def formatP (logicalPage : Page) : BitVec 72 := (0 : BitVec 56) ++ logicalPage
/-- Format I. -/
def formatI (devDataPage devSavePage : Page) : BitVec 72 := (0 : BitVec 40) ++ devDataPage ++ devSavePage
/-- Format D. -/
def formatD (x y : Half) (addr : Addr) (frame mode : Byte) : BitVec 72 := x ++ y ++ addr ++ frame ++ mode

/-- The three address bytes of a W4 frame, the most significant first (R92, R98). -/
def addrBytes (a : Addr) : List Byte :=
  [BitVec.extractLsb' 16 8 a, BitVec.extractLsb' 8 8 a, BitVec.extractLsb' 0 8 a]

/-- The encoder, for the value `opw` of OP_WRITE. -/
def encode (opw : Byte) : Instr → Encoded
  | .select => .command (commandWord 0x01 0) []
  | .deselect => .command (commandWord 0x02 0) []
  | .transfer byte => .command (commandWord 0x03 (formatB byte)) []
  | .writecmd opcode => .command (commandWord 0x10 (formatB opcode)) []
  | .seek opcode addr => .command (commandWord 0x11 (formatOA opcode addr)) []
  | .beginread addr => .command (commandWord 0x12 (formatA addr)) []
  | .readpending => .command (commandWord 0x13 0) []
  | .readlast => .command (commandWord 0x14 0) []
  | .readpending16 => .command (commandWord 0x15 0) []
  | .readpending24 => .command (commandWord 0x16 0) []
  | .readpending32 => .command (commandWord 0x17 0) []
  | .readlast16 => .command (commandWord 0x18 0) []
  | .readlast24 => .command (commandWord 0x19 0) []
  | .readlast32 => .command (commandWord 0x1A 0) []
  | .writeenable => .command (commandWord 0x1B 0) []
  | .wake => .command (commandWord 0x1C 0) []
  | .sleep => .command (commandWord 0x1D 0) []
  | .eraseblock addr => .command (commandWord 0x1E (formatA addr)) []
  | .writepage addr data => .command (commandWord 0x1F (formatA addr)) data
  | .init devDataPage devSavePage => .command (commandWord 0x20 (formatI devDataPage devSavePage)) []
  | .seekdata offset => .command (commandWord 0x21 (formatA offset)) []
  | .seeksave offset => .command (commandWord 0x22 (formatA offset)) []
  | .seekdataarray index elementSize extraOffset =>
      .command (commandWord 0x23 (formatX index elementSize extraOffset)) []
  | .erasesaveblock logicalPage => .command (commandWord 0x24 (formatP logicalPage)) []
  | .writesavepage logicalPage data => .command (commandWord 0x25 (formatP logicalPage)) data
  | .drawbitmap x y addr frame mode => .command (commandWord 0x30 (formatD x y addr frame mode)) []
  | .opReleasePd => .frame [WireOp.releasePd]
  | .opPowerDown => .frame [WireOp.powerDown]
  | .opWriteEnable => .frame [WireOp.writeEnable]
  | .opRead addr dummies => .frame (WireOp.read :: addrBytes addr ++ dummies)
  | .opWrite addr data => .frame (opw :: addrBytes addr ++ data)
  | .opErase addr => .frame (WireOp.erase :: addrBytes addr)
  | .opJedecId dummies => .frame (WireOp.jedecId :: dummies)
  | .opReadStatus1 dummies => .frame (WireOp.readStatus1 :: dummies)
  | .opReadStatus2 dummies => .frame (WireOp.readStatus2 :: dummies)

/-! ## The opcode table's rows -/

/-- How many bytes of zeros complete the frame of a table row beyond its opcode byte: the three address bytes of W4, one
dummy byte for a read, 256 payload bytes for a write, three reply bytes for JEDEC-ID (R149), one for a status (R150)
(log 28). -/
def tableFrameZeros (opcode : Byte) : Nat :=
  if opcode = WireOp.read then 4
  else if opcode = WireOp.write then 259
  else if opcode = WireOp.erase then 3
  else if opcode = WireOp.jedecId then 3
  else if opcode = WireOp.readStatus1 then 1
  else if opcode = WireOp.readStatus2 then 1
  else 0

/-- A table word in the form its decoder takes: up to 8 bits are a wire row's opcode byte, more are a command word, with
256 zero payload bytes where OP has a payload (R104). -/
def tableWord (nbits w : Nat) : Encoded :=
  if nbits ≤ 8 then
    let opcode : Byte := BitVec.ofNat 8 w
    .frame (opcode :: List.replicate (tableFrameZeros opcode) 0)
  else
    let word : CmdWord := BitVec.ofNat 80 w
    .command word (if word.op = 0x1F ∨ word.op = 0x25 then List.replicate pageBytes 0 else [])

/-- The instruction the decoder reads from a word of the opcode table. -/
def decodeTableWord (nbits w : Nat) : Option Instr :=
  match decode WireOp.write (tableWord nbits w) with
  | .ok i => some i
  | .error _ => none

end Sys2Proof
end

