-- ==== Sys2Proof/Machine/State.lean ====
section
/-! DEFINITION. The state of the engine (`10_state.md` R20), of its environment (R37; `20_memory.md` R52, R53, R68), the
verdict marks (R29), the moves HOST will make (`00_scope.md` R5), and the state after reset (R35). Plain data throughout.

HOW A VERDICT SHOWS (log 1). `60_exceptions.md` R220 says what a model does on a fault or a refusal: it sets the sticky mark
and changes nothing else. So a meaning answers a NEXT state that holds the mark, and from a state that holds one the
machine makes no further step but a reset: `step` answers `fault` or `refused` with that mark. -/

namespace Sys2Proof.Machine

/-! ## The enumerations -/

/-- The protocol phase (`10_state.md` R23). -/
inductive PState where
  /-- IDLE: no wire command open -/
  | idle
  /-- SELECTED: CS asserted, no byte sent yet -/
  | selected
  /-- CMD_OPEN: at least one byte sent, no pipelined read -/
  | cmdOpen
  /-- READING: a pipelined read with one transfer outstanding -/
  | reading
  deriving DecidableEq, Repr

/-- An event of the wire trace (`00_scope.md` R11). -/
inductive Event where
  /-- `S`: chip-select goes from deasserted to asserted -/
  | sel
  /-- `D`: chip-select goes from asserted to deasserted -/
  | desel
  /-- `T(tx, rx)`: one byte transferred; `drawn` says that the rules leave `rx` as `any8`, the case the notation of R11
  writes `T(tx)` (log 26) -/
  | xfer (tx rx : Byte) (drawn : Bool)
  deriving DecidableEq, Repr

/-- The regions of the address translator (`60_exceptions.md` R222: the information of code 2). -/
inductive Region where
  | data
  | save
  deriving DecidableEq, Repr

/-- What was given to the engine when a verdict arose: a host command by its OP, or a wire frame by its opcode (log 27). -/
inductive Given where
  | command (op : Byte)
  | frame (opcode : Byte)
  deriving DecidableEq, Repr

/-- Why the machine stops with a fault. All are safe: the model stops where the hardware goes on undetected
(`60_exceptions.md` R220, R221). -/
inductive Fault where
  /-- Code 1 (R223). Marked by every meaning whose phase precondition fails (`41_protocol_engine.md` R147), by `Issue` and
  by `Deselect` with INFLIGHT = 1; answered by `step` once marked. Safe. -/
  | protocolMisuse (given : Given) (phase : PState)
  /-- Code 2 (R224). Marked by the meanings that translate an address while INITED = 0; answered by `step` once marked.
  Safe. -/
  | uninitialisedPage (region : Region)
  /-- Code 3 (R225). Marked by `Issue` (contract 3) and `Deselect` (contract 2) when the flash part is strict; answered by
  `step` once marked. Safe. -/
  | flashContract (contract : Nat) (opcode : Byte)
  /-- Code 4 (R226), kind "stuck". Answered by `step` in a state where a command blocks in `Wait()` for ever. Safe. -/
  | busHang
  /-- HOST writes a framebuffer index that does not exist (`20_memory.md` R52). Answered by `step` for that move only;
  no instruction raises it. Safe. -/
  | framebufferIndex (index : Nat)
  deriving DecidableEq, Repr

/-- Why the machine refuses. All are safe: no effect is claimed. -/
inductive Refusal where
  /-- An instruction that has no meaning yet; no arm of `exec` answers it. Safe. -/
  | notModelled (mnemonic : String)
  /-- Code 16: a reserved command word (`30_encoding.md` R102). Marked by `step`. Safe. -/
  | reservedCommand (op : Byte)
  /-- Code 17: a second INIT (`42_address_dispatch.md` R160). Marked by `execInit`. Safe. -/
  | secondInit
  /-- A command word with another number of payload bytes than `30_encoding.md` R104 gives it (log 24). Marked by `step`.
  Safe. -/
  | payloadLength (op : Byte) (count : Nat)
  /-- A wire frame with no byte, given as a whole (log 4). Marked by `step`. Safe. -/
  | emptyFrame
  /-- A wire frame, given as a whole, whose first byte is no row of `30_encoding.md` R101 (log 4). Marked by `step`. Safe. -/
  | unknownWireOpcode (byte : Byte)
  /-- A wire frame, given as a whole, of another length than `30_encoding.md` R91 and R92 give its opcode (log 4). Marked by
  `step`. Safe. -/
  | frameLength (opcode : Byte) (count : Nat)
  deriving DecidableEq, Repr

/-- What HOST may do when no command is executing (`70_reset_and_hazards.md` R266, R250; log 2). -/
inductive HostMove where
  /-- give a command word (`30_encoding.md` R97), or have a whole wire frame sent (log 3) -/
  | give (what : Encoded)
  /-- take time: SHIFTER may complete the transfer in flight (log 18) -/
  | wait
  /-- write a framebuffer byte between commands (log 19) -/
  | fbWrite (index : Nat) (value : Byte)
  /-- the reset event (`70_reset_and_hazards.md` R250, R253; log 17) -/
  | reset
  deriving DecidableEq, Repr

/-! ## The parts of the state -/

/-- A memory: (address, byte) pairs, addresses strictly rising, no entry equal to what an unlisted address reads as
(`Mem.wf` in Machine/Ops.lean). -/
abbrev Mem := List Host.Cell

/-- The reference flash part (`20_memory.md` R68). -/
structure FlashPart where
  /-- the flash array -/
  mem : Mem
  /-- the internal address counter, the Pipelined Read Cursor -/
  cur : Addr
  /-- the write-enable latch -/
  wel : Bool
  /-- powered down -/
  pd : Bool
  /-- bytes received since the last `S` -/
  n : Nat
  /-- the first byte received since the last `S` -/
  op : Byte
  /-- the address assembled from bytes 2 to 4 of the frame -/
  addr : Addr
  /-- payload bytes received after the address -/
  buf : List Byte
  /-- the part ignores the rest of this frame -/
  ign : Bool
  /-- a contract of R78 was broken -/
  bad : Bool
  deriving DecidableEq, Repr

/-- The blitter's temporaries (`10_state.md` R27; `43_blitter.md` R185 for COL0). Mathematical integers, as R181 asks. -/
structure Blit where
  /-- BW -/
  bw : Int
  /-- BH -/
  bh : Int
  /-- SKIPLEFT -/
  skipLeft : Int
  /-- RENDERW -/
  renderW : Int
  /-- COL0 -/
  col0 : Int
  /-- SKIPTOP -/
  skipTop : Int
  /-- RENDERH -/
  renderH : Int
  /-- ROWS -/
  rows : Int
  /-- RPF -/
  rpf : Int
  /-- STRIDE -/
  stride : Int
  /-- SRC -/
  src : Addr
  /-- DROW -/
  drow : Int
  /-- SHIFT -/
  shift : Nat
  /-- BOTTOM -/
  bottom : Byte
  deriving DecidableEq, Repr

/-- The whole state. -/
structure State where
  /-- CS (`10_state.md` R21) -/
  cs : Bool
  /-- INFLIGHT (R22) -/
  inflight : Bool
  /-- PENDING (R22) -/
  pending : Byte
  /-- SDR (R22) -/
  sdr : Byte
  /-- PSTATE (R23) -/
  pstate : PState
  /-- CMDOP (R24) -/
  cmdop : Byte
  /-- WE (R25) -/
  we : Bool
  /-- DATAPAGE (R26) -/
  dataPage : Page
  /-- SAVEPAGE (R26) -/
  savePage : Page
  /-- INITED (R26) -/
  inited : Bool
  /-- BW, BH and the blitter temporaries (R27): no value outside a DRAWBITMAP (log 23) -/
  blit : Option Blit
  /-- the mark FAULT (R29) -/
  fault : Option Fault
  /-- the mark REFUSED (R29) -/
  refused : Option Refusal
  /-- a command blocks in `Wait()` for ever (`60_exceptions.md` R226; log 20) -/
  stuck : Bool
  /-- TRACE (`00_scope.md` R11) -/
  trace : List Event
  /-- the responses given so far, in order (`30_encoding.md` R96; log 25) -/
  responses : List Resp
  /-- FLASH (`20_memory.md` R68) -/
  flash : FlashPart
  /-- FB (`20_memory.md` R52) -/
  fb : Mem
  /-- PM (`20_memory.md` R53) -/
  pm : Mem
  /-- the parameters (`00_scope.md` R7; `10_state.md` R38) -/
  cfg : Config
  /-- the moves HOST will make, the next first (log 2) -/
  host : List HostMove
  /-- how many `any8` draws were taken (log 5) -/
  draws : Nat
  deriving DecidableEq, Repr

/-- The reference flash part when a run starts (`10_state.md` R35; log 8, log 9). -/
def FlashPart.reset : FlashPart where
  mem := []
  cur := 0
  wel := false
  pd := false
  n := 0
  op := 0
  addr := 0
  buf := []
  ign := false
  bad := false

/-- The machine right after reset (`10_state.md` R35; `70_reset_and_hazards.md` R251). Where R35 leaves a value unspecified
the log names it: SDR, PENDING, CMDOP log 6; the pages log 7; the flash part log 8; the memories log 9 to log 11; the
parameters log 13; HOST's moves log 2. -/
def State.reset : State where
  cs := false
  inflight := false
  pending := 0
  sdr := 0
  pstate := .idle
  cmdop := 0
  we := false
  dataPage := 0
  savePage := 0
  inited := false
  blit := none
  fault := none
  refused := none
  stuck := false
  trace := []
  responses := []
  flash := FlashPart.reset
  fb := []
  pm := []
  cfg := Config.default
  host := []
  draws := 0

end Sys2Proof.Machine
end

