-- ==== Sys2Proof/Machine/Memory.lean ====
section
/-! DEFINITION. The three memory spaces (`20_memory.md` R50) and the operations on one of them: read a byte, write a byte,
set a range to the erased value. A memory is a list in one canonical form (`Mem.wf`), which every operation keeps
(Laws/Memory.lean). -/

namespace Sys2Proof.Machine

/-- The spaces of `20_memory.md` R50. -/
inductive Space where
  | flash
  | fb
  | pm
  deriving DecidableEq, Repr

/-- What an address that the list does not hold reads as. The launch contents are parameters (`10_state.md` R35): flash and
program memory read as erased (log 9, log 11), the framebuffer as 0 (log 10). -/
def blankByte : Space → Byte
  | .flash => 0xFF
  | .fb => 0x00
  | .pm => 0xFF

/-- Read one byte. -/
def Mem.read (sp : Space) (m : Mem) (a : Nat) : Byte :=
  match m with
  | [] => blankByte sp
  | (k, v) :: rest => if k = a then v else Mem.read sp rest a

/-- Put an entry at its place in the order of addresses. -/
def Mem.insert (m : Mem) (a : Nat) (v : Byte) : Mem :=
  match m with
  | [] => [(a, v)]
  | (k, w) :: rest =>
    if k < a then (k, w) :: Mem.insert rest a v
    else if k = a then (a, v) :: rest
    else (a, v) :: (k, w) :: rest

/-- Write one byte; writing what an unlisted address reads as removes the entry. -/
def Mem.write (sp : Space) (m : Mem) (a : Nat) (v : Byte) : Mem :=
  if v = blankByte sp then m.filter fun c => c.1 != a else Mem.insert m a v

/-- Make every byte of `base .. base + len - 1` read as unlisted; in flash that is the erased value 0xFF. -/
def Mem.blank (m : Mem) (base len : Nat) : Mem :=
  m.filter fun c => !(decide (base ≤ c.1) && decide (c.1 < base + len))

/-- Addresses strictly rise. -/
def Mem.rising : Mem → Bool
  | [] => true
  | [_] => true
  | c :: d :: rest => decide (c.1 < d.1) && Mem.rising (d :: rest)

/-- The canonical form: addresses strictly rise, and no entry equals what an unlisted address reads as. -/
def Mem.wf (sp : Space) (m : Mem) : Bool := Mem.rising m && m.all fun c => c.2 != blankByte sp

/-- Every entry lies below `size`. -/
def Mem.below (m : Mem) (size : Nat) : Bool := m.all fun c => decide (c.1 < size)

end Sys2Proof.Machine
end

