-- ==== Sys2Proof/Machine/Flags.lean ====
section
/-! DEFINITION. The engine has no condition codes and no arithmetic flags (`10_state.md` R32). Its one computed flag is WE
(R25); this file holds that computation and the reading of DRAWBITMAP's mode word (R28). -/

namespace Sys2Proof.Machine

/-- WE after `Deselect()` closes a frame (`10_state.md` R25; `40_bus_primitive.md` R121): it is set where the frame's opcode is
OP_WRITE_ENABLE, then cleared where it is OP_WRITE or OP_ERASE; a frame that sent no byte leaves it. -/
def weAfterClose (opWrite : Byte) (phase : PState) (cmdop : Byte) (we : Bool) : Bool :=
  if phase = .cmdOpen ∨ phase = .reading then
    let set := if cmdop = WireOp.writeEnable then true else we
    if cmdop = opWrite ∨ cmdop = WireOp.erase then false else set
  else we

/-- `whiteBlack`, mode bit 0 (`10_state.md` R28). -/
def modeWhiteBlack (mode : Byte) : Bool := mode.getLsbD 0
/-- `invert`, mode bit 1. -/
def modeInvert (mode : Byte) : Bool := mode.getLsbD 1
/-- `black` (blackenBitmap), mode bit 2. -/
def modeBlack (mode : Byte) : Bool := mode.getLsbD 2
/-- `reverse` (reverseBits), mode bit 3. -/
def modeReverse (mode : Byte) : Bool := mode.getLsbD 3
/-- `masked` (hasMaskPlane), mode bit 4. -/
def modeMasked (mode : Byte) : Bool := mode.getLsbD 4

end Sys2Proof.Machine
end

