-- ==== Sys2Proof/Machine/Flash.lean ====
section
/-! DEFINITION. The reference flash part (`20_memory.md` R68 to R78): its answer to one byte, and what it commits when
chip-select is deasserted. `none` as an answer is `any8`: the caller draws the byte. -/

namespace Sys2Proof.Machine

/-- The part sees `S` (`20_memory.md` R70). -/
def FlashPart.select (f : FlashPart) : FlashPart := { f with n := 0 }

/-- The wire commands that carry an address (`20_memory.md` R69). -/
def hasAddress (cfg : Config) (op : Byte) : Bool :=
  op == WireOp.read || op == cfg.opWrite || op == WireOp.erase

/-- `a mod FLASH_BYTES` as the 24-bit cursor holds it (`20_memory.md` R68, R71). -/
def cursorAt (cfg : Config) (a : Nat) : Addr := BitVec.ofNat 24 (a % cfg.flashBytes)

/-- The first byte of a frame is its opcode (`20_memory.md` R69, `k = 0`). A powered-down part ignores every frame but a
release (R75); a strict part takes a read, write or erase opened then for a broken contract 3 (R78). -/
def FlashPart.takeOpcode (cfg : Config) (f : FlashPart) (b : Byte) : FlashPart :=
  { f with
    n := f.n + 1
    op := b
    addr := 0
    buf := []
    ign := f.pd && b != WireOp.releasePd
    bad := cfg.strict && f.pd && hasAddress cfg b }

/-- A byte of the address (`20_memory.md` R69, `k` in 1 to 3); the third one loads the cursor. -/
def FlashPart.takeAddress (cfg : Config) (f : FlashPart) (b : Byte) : FlashPart :=
  let a : Addr := (f.addr <<< 8) ||| b.setWidth 24
  { f with
    n := f.n + 1
    addr := a
    cur := if f.n = 3 then cursorAt cfg a.toNat else f.cur }

/-- `FlashExchange(b)` (`20_memory.md` R69): the part's answer, `none` for `any8`, and the part after it. -/
def FlashPart.exchange (cfg : Config) (f : FlashPart) (b : Byte) : Option Byte × FlashPart :=
  if f.bad then (none, { f with n := f.n + 1 })
  else if f.n = 0 then (none, f.takeOpcode cfg b)
  else if f.ign then (none, { f with n := f.n + 1 })
  else if hasAddress cfg f.op ∧ f.n ≤ 3 then (none, f.takeAddress cfg b)
  else if f.op = WireOp.read then
    (some (Mem.read .flash f.mem f.cur.toNat), { f with n := f.n + 1, cur := cursorAt cfg (f.cur.toNat + 1) })
  else if f.op = cfg.opWrite then (none, { f with n := f.n + 1, buf := f.buf ++ [b] })
  else (none, { f with n := f.n + 1 })

/-- Where payload byte `i` of a page write at `addr` goes: `(base + ((addr + i) mod 256)) mod FLASH_BYTES`
(`20_memory.md` R73). The address wraps inside its 256-byte page. -/
def programAddr (flashBytes addr i : Nat) : Nat := (addr - addr % 256 + (addr + i) % 256) % flashBytes

/-- The loop of `Program()` (`20_memory.md` R73) from payload byte `i` on: the array after it, and whether it met a byte that
was not erased. -/
def programFrom (flashBytes addr : Nat) (i : Nat) (data : List Byte) (m : Mem) : Mem × Bool :=
  match data with
  | [] => (m, false)
  | b :: rest =>
    let a := programAddr flashBytes addr i
    let old := Mem.read .flash m a
    let r := programFrom flashBytes addr (i + 1) rest (Mem.write .flash m a (old &&& b))
    (r.1, (old != 0xFF) || r.2)

/-- `Program()` (`20_memory.md` R73). A strict part takes a target byte that is not erased for a broken contract 2 (R78): its
array is then unspecified, nothing reads it again, and the model leaves it and the write-enable latch as they were
(DESIGN CHOICE, log 21). -/
def FlashPart.program (cfg : Config) (f : FlashPart) : FlashPart :=
  if f.wel then
    let r := programFrom cfg.flashBytes f.addr.toNat 0 f.buf f.mem
    if cfg.strict && r.2 then { f with bad := true } else { f with mem := r.1, wel := false }
  else f

/-- The first byte of the erase block that holds address `a` (`20_memory.md` R74). -/
def blockBase (cfg : Config) (a : Nat) : Nat :=
  a % cfg.flashBytes - a % cfg.flashBytes % cfg.eraseBlockBytes

/-- `EraseBlock()` (`20_memory.md` R74). -/
def FlashPart.eraseBlock (cfg : Config) (f : FlashPart) : FlashPart :=
  if f.wel then
    { f with mem := Mem.blank f.mem (blockBase cfg f.addr.toNat) cfg.eraseBlockBytes, wel := false }
  else f

/-- What a frame that the part did not ignore commits (`20_memory.md` R70, the first four lines). -/
def FlashPart.commit (cfg : Config) (f : FlashPart) : FlashPart :=
  let f1 := if f.op = WireOp.writeEnable ∧ f.n = 1 then { f with wel := true } else f
  let f2 := if f.op = cfg.opWrite ∧ 5 ≤ f.n then f1.program cfg else f1
  let f3 := if f.op = WireOp.erase ∧ f.n = 4 then f2.eraseBlock cfg else f2
  if f.op = WireOp.powerDown ∧ f.n = 1 then { f3 with pd := true } else f3

/-- A frame whose opcode is OP_RELEASE_PD wakes the part (`20_memory.md` R70, R75). -/
def FlashPart.release (f : FlashPart) : FlashPart :=
  if !f.bad && decide (1 ≤ f.n) && f.op == WireOp.releasePd then { f with pd := false } else f

/-- `FlashDeselect()` (`20_memory.md` R70). -/
def FlashPart.deselect (cfg : Config) (f : FlashPart) : FlashPart :=
  let g := if !f.bad && decide (1 ≤ f.n) && !f.ign then f.commit cfg else f
  { g.release with n := 0 }

/-- The part at the reset event: where a frame is open it sees a deselect (`70_reset_and_hazards.md` R253), and its
write-enable latch is clear afterwards (`10_state.md` R35). The rest stays (log 17). -/
def FlashPart.restart (cfg : Config) (frameOpen : Bool) (f : FlashPart) : FlashPart :=
  { (if frameOpen then f.deselect cfg else f) with wel := false }

/-! ## A run of bytes at the part (`00_scope.md` R11: the part's state is a function of the trace) -/

/-- The part after a run of bytes. -/
def FlashPart.feed (cfg : Config) (f : FlashPart) (bytes : List Byte) : FlashPart :=
  match bytes with
  | [] => f
  | b :: rest => FlashPart.feed cfg (f.exchange cfg b).2 rest

/-- The `T` events of a run of bytes as the notation of R11 writes them: `T(b)` with no answer where it is `any8` (written here
with a 0 in its place), `T(b>r)` where the part answers `r`. -/
def FlashPart.talk (cfg : Config) (f : FlashPart) (bytes : List Byte) : List Event :=
  match bytes with
  | [] => []
  | b :: rest =>
    (match (f.exchange cfg b).1 with
      | some r => Event.xfer b r false
      | none => Event.xfer b 0 true) :: FlashPart.talk cfg (f.exchange cfg b).2 rest

end Sys2Proof.Machine
end

