-- ==== Sys2Proof/Machine/Operands.lean ====
section
/-! DEFINITION. Operand assembly: the bytes of an address (`30_encoding.md` R98), the big-endian composites
(`20_memory.md` R54), the sign extension (`30_encoding.md` R99), the address translation (`20_memory.md` R61 to R63) and
the page-assignment slots (`20_memory.md` R53). -/

namespace Sys2Proof.Machine

/-- `address[23:16]` (`30_encoding.md` R98). -/
def addrHi (a : Addr) : Byte := BitVec.extractLsb' 16 8 a
/-- `address[15:8]`. -/
def addrMid (a : Addr) : Byte := BitVec.extractLsb' 8 8 a
/-- `address[7:0]`. -/
def addrLo (a : Addr) : Byte := BitVec.extractLsb' 0 8 a

/-- `b0 :: b1`, the byte at the lower address first (`20_memory.md` R54). -/
def join16 (b0 b1 : Byte) : BitVec 16 := b0 ++ b1
/-- `b0 :: b1 :: b2`. -/
def join24 (b0 b1 b2 : Byte) : BitVec 24 := b0 ++ b1 ++ b2
/-- `b0 :: b1 :: b2 :: b3`. -/
def join32 (b0 b1 b2 b3 : Byte) : BitVec 32 := b0 ++ b1 ++ b2 ++ b3

/-- A datum as a response, zero-extended (`30_encoding.md` R96). -/
def respOf {n : Nat} (v : BitVec n) : Resp := v.setWidth 32

/-- `sext_16` (`30_encoding.md` R99). -/
def sext16 (h : Half) : Int := h.toInt

/-- `(page << 8)`, 24 bits (`20_memory.md` R61). -/
def pageBase (page : Page) : Addr := page ++ (0 : Byte)

/-- `((page << 8) + offset) mod 2^24`: `ToDataAddress`, `ToSaveAddress` (`20_memory.md` R61, R62). -/
def translate (page : Page) (offset : Addr) : Addr := pageBase page + offset

/-- `((SAVEPAGE + logicalPage) << 8) mod 2^24`: `SavePageAddress` (`20_memory.md` R62). -/
def savePageAddr (page logicalPage : Page) : Addr := pageBase (page + logicalPage)

/-- `ArrayOffset` (`20_memory.md` R63): an element size of 0 means 256, and the product is not truncated. -/
def arrayOffset (index elementSize : Byte) (extraOffset : Addr) : Addr :=
  let es : Nat := if elementSize = 0 then 256 else elementSize.toNat
  BitVec.ofNat 24 (index.toNat * es + extraOffset.toNat)

/-- `PmKey(a)`: the key slot at offset `a` as one 16-bit value (`20_memory.md` R53; the byte order is a parameter, log 12). -/
def pmKey (cfg : Config) (pm : Mem) (a : Nat) : BitVec 16 :=
  match cfg.pmKeyOrder with
  | .little => join16 (Mem.read .pm pm (a + 1)) (Mem.read .pm pm a)
  | .big => join16 (Mem.read .pm pm a) (Mem.read .pm pm (a + 1))

/-- The page slot at offset `p`: the byte at the lower offset is the more significant (`20_memory.md` R53). -/
def pmPage (pm : Mem) (p : Nat) : Page := join16 (Mem.read .pm pm p) (Mem.read .pm pm (p + 1))

/-- The page that INIT resolves for one region: the assigned page where the key slot holds KEY, else the development default
(`42_address_dispatch.md` R160). -/
def resolvePage (cfg : Config) (pm : Mem) (keyAt pageAt : Nat) (dev : Page) : Page :=
  if pmKey cfg pm keyAt = pageKey then pmPage pm pageAt else dev

end Sys2Proof.Machine
end

