-- ==== Sys2Proof/Machine/Ops.lean ====
section
/-! DEFINITION. The named operations every meaning is built from: the updates of the state, `Issue` and `Wait` with the
SHIFTER step (`00_scope.md` R10), the bus primitives (`40_bus_primitive.md` R120 to R122), the protocol primitives
(`41_protocol_engine.md` R130 to R134, R144, R145), the translator's reads of the pages (`20_memory.md` R61, R62); and the
one shared operation that records a verdict (`60_exceptions.md` R220, R222) with the reset event, the only way back
(`70_reset_and_hazards.md` R250, R253). -/

namespace Sys2Proof.Machine

/-! ## How an operation ends -/

/-- Why an operation stops a command before its end (`60_exceptions.md` R222). -/
inductive Stop where
  /-- a failed `require` (`00_scope.md` R9) -/
  | misuse
  /-- a page was needed while INITED = 0 -/
  | uninit (region : Region)
  /-- the flash part saw a broken contract in a frame with this opcode -/
  | contract (number : Nat) (opcode : Byte)
  /-- a `Wait()` that never returns -/
  | hang
  /-- a second INIT -/
  | secondInit
  deriving DecidableEq, Repr

/-- How an operation ends: with a value and a state, or stopped in a state whose effects so far stand
(`60_exceptions.md` R228). -/
inductive Res (α : Type) where
  | ok (a : α) (s : State)
  | halt (why : Stop) (s : State)
  deriving Repr

/-- One operation after another; a stopped one ends the sequence. -/
def Res.bind {α β : Type} (r : Res α) (f : α → State → Res β) : Res β :=
  match r with
  | .ok a s => f a s
  | .halt why s => .halt why s

/-- `require P` (`00_scope.md` R9). -/
def require (p : Bool) (s : State) : Res Unit := if p then .ok () s else .halt .misuse s

/-! ## Updates of the state -/

/-- Add an event to TRACE (`00_scope.md` R11). -/
def State.log (s : State) (e : Event) : State := { s with trace := s.trace ++ [e] }

/-- Give a response (`30_encoding.md` R96). -/
def State.respond (s : State) (v : Resp) : State := { s with responses := s.responses ++ [v] }

/-- Count one `any8` draw (log 5). -/
def State.drew (s : State) : State := { s with draws := s.draws + 1 }

/-- The flash part after an exchange. -/
def State.withFlash (s : State) (f : FlashPart) : State := { s with flash := f }

/-- The framebuffer after a write. -/
def State.withFb (s : State) (m : Mem) : State := { s with fb := m }

/-- A transfer is in flight, its answer fixed (`00_scope.md` R10). -/
def State.launch (s : State) (r : Byte) : State := { s with pending := r, inflight := true }

/-- The SHIFTER step's effect (`00_scope.md` R10). -/
def State.shifted (s : State) : State := { s with sdr := s.pending, inflight := false }

/-- `Select()` with CS = 0 (`40_bus_primitive.md` R120). -/
def State.openBus (s : State) : State :=
  { s with cs := true, trace := s.trace ++ [.sel], flash := s.flash.select, pstate := .selected }

/-- The first byte of a frame names its command (`40_bus_primitive.md` R122, `XferTracked`; `10_state.md` R24). -/
def State.openCommand (s : State) (b : Byte) : State := { s with cmdop := b, pstate := .cmdOpen }

/-- CS falls: the part commits or drops its frame (`40_bus_primitive.md` R121, first half). -/
def State.dropBus (s : State) : State :=
  { s with cs := false, trace := s.trace ++ [.desel], flash := s.flash.deselect s.cfg }

/-- The phase and the WE shadow after a close (`40_bus_primitive.md` R121, second half). -/
def State.closePhase (s : State) : State :=
  { s with we := weAfterClose s.cfg.opWrite s.pstate s.cmdop s.we, pstate := .idle }

/-- A pipelined read has begun (`41_protocol_engine.md` R132). -/
def State.startReading (s : State) : State := { s with pstate := .reading }

/-- INIT's result (`42_address_dispatch.md` R160). -/
def State.withPages (s : State) (data save : Page) : State :=
  { s with dataPage := data, savePage := save, inited := true }

/-- The blitter's temporaries (`10_state.md` R27). -/
def State.withBlit (s : State) (b : Option Blit) : State := { s with blit := b }

/-- HOST's moves after the one just taken. -/
def State.withHost (s : State) (moves : List HostMove) : State := { s with host := moves }

/-! ## `Issue`, the SHIFTER step, `Wait` (`00_scope.md` R10) -/

/-- The byte a transfer brings: the part's answer while CS = 1, a draw where the part leaves it open or CS = 0. Also whether it
was drawn, and the state after the exchange. -/
def answerOf (b : Byte) (s : State) : Byte × Bool × State :=
  if s.cs then
    match s.flash.exchange s.cfg b with
    | (some r, f) => (r, false, s.withFlash f)
    | (none, f) => (any8 s.draws, true, (s.withFlash f).drew)
  else (any8 s.draws, true, s.drew)

/-- `Issue(b)`. A strict part that sees contract 3 broken at this byte stops the command (`60_exceptions.md` R228). -/
def issue (b : Byte) (s : State) : Res Unit :=
  (require (!s.inflight) s).bind fun _ s =>
    match answerOf b s with
    | (r, drawn, s1) =>
      let s2 := (s1.launch r).log (.xfer b r drawn)
      if !s.flash.bad && s2.flash.bad then .halt (.contract 3 s2.flash.op) s2 else .ok () s2

/-- The SHIFTER step, where it is enabled: INFLIGHT = 1 and BUS_OK. -/
def shifterStep (s : State) : State := if s.inflight && s.cfg.busOk then s.shifted else s

/-- `Wait()`: with a transfer in flight the SHIFTER step ends it (`60_exceptions.md` R226: it is taken after finitely many
steps); with BUS_OK = false it is never enabled, and the command hangs. -/
def wait (s : State) : Res Unit :=
  if s.inflight then
    if s.cfg.busOk then .ok () (shifterStep s) else .halt .hang s
  else .ok () s

/-! ## The bus primitives (`40_bus_primitive.md`) -/

/-- `Select()` (R120): idempotent. -/
def select (s : State) : State := if s.cs then s else s.openBus

/-- `Xfer(b)` (R122): the byte received. -/
def xfer (b : Byte) (s : State) : Res Byte :=
  (issue b s).bind fun _ s =>
  (wait s).bind fun _ s =>
  .ok s.sdr s

/-- `XferTracked(b)` (R122). -/
def xferTracked (b : Byte) (s : State) : Res Byte :=
  xfer b (if s.pstate = .selected then s.openCommand b else s)

/-- `Deselect()` (R121): idempotent. A strict part that finds contract 2 broken at this `D` stops the command. -/
def deselect (s : State) : Res Unit :=
  (require (!s.inflight) s).bind fun _ s =>
    if s.cs then
      let s1 := s.dropBus
      if !s.flash.bad && s1.flash.bad then .halt (.contract 2 s.flash.op) s1 else .ok () s1.closePhase
    else .ok () s

/-- Send a list of bytes, each waited for, the received bytes discarded. -/
def sendAll (bytes : List Byte) (s : State) : Res Unit :=
  match bytes with
  | [] => .ok () s
  | b :: rest => (xfer b s).bind fun _ s => sendAll rest s

/-! ## The protocol primitives (`41_protocol_engine.md`) -/

/-- The phases in which a new wire command may be opened: IDLE and SELECTED (R147). The last sentence of
`60_exceptions.md` R235 would make SLEEP in SELECTED a misuse; the model follows R143, R147 and R223 (DESIGN CHOICE, log 34). -/
def canOpen (p : PState) : Bool := p == .idle || p == .selected

/-- `WriteCmd(op)` (R130). -/
def writeCmd (op : Byte) (s : State) : Res Unit :=
  (require (canOpen s.pstate) s).bind fun _ s =>
  (xferTracked op (select s)).bind fun _ s =>
  deselect s

/-- `Seek(op, a)` (R131): CS stays asserted. -/
def seek (op : Byte) (a : Addr) (s : State) : Res Unit :=
  (require (canOpen s.pstate) s).bind fun _ s =>
  (xferTracked op (select s)).bind fun _ s =>
  sendAll [addrHi a, addrMid a, addrLo a] s

/-- `BeginRead(a)` (R132). -/
def beginRead (a : Addr) (s : State) : Res Unit :=
  (seek WireOp.read a s).bind fun _ s =>
  (issue dummyByte s).bind fun _ s =>
  .ok () s.startReading

/-- `ReadPending()` (R133). -/
def readPending (s : State) : Res Byte :=
  (require (s.pstate == .reading) s).bind fun _ s =>
  (wait s).bind fun _ s =>
  let v := s.sdr
  (issue dummyByte s).bind fun _ s =>
  .ok v s

/-- `ReadLast()` (R134). -/
def readLast (s : State) : Res Byte :=
  (require (s.pstate == .reading) s).bind fun _ s =>
  (wait s).bind fun _ s =>
  let v := s.sdr
  (deselect s).bind fun _ s =>
  .ok v s

/-- `EraseBlock(a)` (R144). -/
def eraseBlock (a : Addr) (s : State) : Res Unit :=
  (writeCmd WireOp.writeEnable s).bind fun _ s =>
  (seek WireOp.erase a s).bind fun _ s =>
  deselect s

/-- `WritePage(a, data)` (R145). -/
def writePage (a : Addr) (data : List Byte) (s : State) : Res Unit :=
  (writeCmd WireOp.writeEnable s).bind fun _ s =>
  (seek s.cfg.opWrite a s).bind fun _ s =>
  (sendAll data s).bind fun _ s =>
  deselect s

/-- A whole wire frame through the bus primitives: `S`, the opcode byte, the other bytes, `D` (`30_encoding.md` R91 to R93;
log 3). -/
def sendFrame (op : Byte) (rest : List Byte) (s : State) : Res Unit :=
  (require (canOpen s.pstate) s).bind fun _ s =>
  (xferTracked op (select s)).bind fun _ s =>
  (sendAll rest s).bind fun _ s =>
  deselect s

/-! ## The translator's reads of the pages -/

/-- `ToDataAddress` (`20_memory.md` R61). -/
def toDataAddress (offset : Addr) (s : State) : Res Addr :=
  if s.inited then .ok (translate s.dataPage offset) s else .halt (.uninit .data) s

/-- `ToSaveAddress` (`20_memory.md` R62). -/
def toSaveAddress (offset : Addr) (s : State) : Res Addr :=
  if s.inited then .ok (translate s.savePage offset) s else .halt (.uninit .save) s

/-- `SavePageAddress` (`20_memory.md` R62). -/
def toSavePage (logicalPage : Page) (s : State) : Res Addr :=
  if s.inited then .ok (savePageAddr s.savePage logicalPage) s else .halt (.uninit .save) s

/-- `SeekData(o)` (`42_address_dispatch.md` R161): the phase is checked before the page (`60_exceptions.md` R228). -/
def seekData (o : Addr) (s : State) : Res Unit :=
  (require (canOpen s.pstate) s).bind fun _ s =>
  (toDataAddress o s).bind fun a s =>
  beginRead a s

/-- `SeekSave(o)` (`42_address_dispatch.md` R162). -/
def seekSave (o : Addr) (s : State) : Res Unit :=
  (require (canOpen s.pstate) s).bind fun _ s =>
  (toSaveAddress o s).bind fun a s =>
  beginRead a s

/-! ## The framebuffer -/

/-- `FB[i] <- v` (`00_scope.md` R9). -/
def fbWrite (i : Nat) (v : Byte) (s : State) : State := s.withFb (Mem.write .fb s.fb i v)

/-! ## Recording a verdict, and the way back -/

/-- A verdict is recorded (`60_exceptions.md` R220, R222, R228): a fault sets FAULT, a refusal REFUSED, a hang leaves the
command without an end. Nothing else changes, and no response is given. `given` and `phase` are the information of code 1:
what was given, and the phase in which it was given. -/
def State.raise (s : State) (given : Given) (phase : PState) (why : Stop) : State :=
  match why with
  | .misuse => { s with fault := some (.protocolMisuse given phase) }
  | .uninit region => { s with fault := some (.uninitialisedPage region) }
  | .contract number opcode => { s with fault := some (.flashContract number opcode) }
  | .hang => { s with stuck := true }
  | .secondInit => { s with refused := some .secondInit }

/-- The mark REFUSED for an encoding that names no instruction (`30_encoding.md` R102). -/
def Refusal.ofDecode : DecodeError → Refusal
  | .reservedCommand op => .reservedCommand op
  | .payloadLength op count => .payloadLength op count
  | .emptyFrame => .emptyFrame
  | .unknownWireOpcode byte => .unknownWireOpcode byte
  | .frameLength opcode count => .frameLength opcode count

/-- A refused encoding: REFUSED is set and nothing else changes (`30_encoding.md` R102). -/
def State.refuse (s : State) (e : DecodeError) : State := { s with refused := some (Refusal.ofDecode e) }

/-- The reset event (`70_reset_and_hazards.md` R250, R253; log 17): the engine's elements take the values of `10_state.md`
R35, TRACE is empty, the marks are clear; the flash part is not reset, but with CS = 1 it sees a deselect, and its latch is
clear. The memories, the parameters and HOST's further moves stay. -/
def State.resetEvent (s : State) : State :=
  { State.reset with
    flash := s.flash.restart s.cfg s.cs
    fb := s.fb
    pm := s.pm
    cfg := s.cfg
    host := s.host
    draws := s.draws }

/-! ## Running a command to its end -/

/-- A host command (`30_encoding.md` R96, R97): its body runs to the end and its value is the response, or it stops with a
verdict and gives none. -/
def runCommand (op : Byte) (body : State → Res Resp) (s : State) : Host.Outcome State Fault Refusal :=
  match body s with
  | .ok v t => .next (t.respond v)
  | .halt why t => .next (t.raise (.command op) s.pstate why)

/-- A whole wire frame: no host command, so no response (log 3). -/
def runFrame (op : Byte) (rest : List Byte) (s : State) : Host.Outcome State Fault Refusal :=
  match sendFrame op rest s with
  | .ok _ t => .next t
  | .halt why t => .next (t.raise (.frame op) s.pstate why)

/-- A body that returns no data responds 0 (`30_encoding.md` R96). -/
def andRespond0 (r : Res Unit) : Res Resp := r.bind fun _ s => .ok 0 s

end Sys2Proof.Machine
end

