-- ==== Sys2Proof/Machine/Protocol.lean ====
section
/-! DEFINITION. Family 41, the flash protocol engine (`41_protocol_engine.md` R130 to R145). -/

namespace Sys2Proof.Machine

/-- WRITECMD opcode (R130). -/
def execWritecmd (opcode : Byte) (s : State) : Host.Outcome State Fault Refusal :=
  runCommand 0x10 (fun s => andRespond0 (writeCmd opcode s)) s

/-- SEEK opcode, addr (R131). -/
def execSeek (opcode : Byte) (addr : Addr) (s : State) : Host.Outcome State Fault Refusal :=
  runCommand 0x11 (fun s => andRespond0 (seek opcode addr s)) s

/-- BEGINREAD addr (R132). -/
def execBeginread (addr : Addr) (s : State) : Host.Outcome State Fault Refusal :=
  runCommand 0x12 (fun s => andRespond0 (beginRead addr s)) s

/-- READPENDING (R133). -/
def execReadpending (s : State) : Host.Outcome State Fault Refusal :=
  runCommand 0x13 (fun s => (readPending s).bind fun b s => .ok (respOf b) s) s

/-- READLAST (R134). -/
def execReadlast (s : State) : Host.Outcome State Fault Refusal :=
  runCommand 0x14 (fun s => (readLast s).bind fun b s => .ok (respOf b) s) s

/-- READPENDING16 (R135). -/
def execReadpending16 (s : State) : Host.Outcome State Fault Refusal :=
  runCommand 0x15 (fun s =>
    (readPending s).bind fun b0 s =>
    (readPending s).bind fun b1 s =>
    .ok (respOf (join16 b0 b1)) s) s

/-- READPENDING24 (R136). -/
def execReadpending24 (s : State) : Host.Outcome State Fault Refusal :=
  runCommand 0x16 (fun s =>
    (readPending s).bind fun b0 s =>
    (readPending s).bind fun b1 s =>
    (readPending s).bind fun b2 s =>
    .ok (respOf (join24 b0 b1 b2)) s) s

/-- READPENDING32 (R137). -/
def execReadpending32 (s : State) : Host.Outcome State Fault Refusal :=
  runCommand 0x17 (fun s =>
    (readPending s).bind fun b0 s =>
    (readPending s).bind fun b1 s =>
    (readPending s).bind fun b2 s =>
    (readPending s).bind fun b3 s =>
    .ok (join32 b0 b1 b2 b3) s) s

/-- `ReadLast16()` (R138); the blitter reads the second header field with it (`43_blitter.md` R182). -/
def readLast16 (s : State) : Res (BitVec 16) :=
  (readPending s).bind fun b0 s =>
  (readLast s).bind fun b1 s =>
  .ok (join16 b0 b1) s

/-- READLAST16 (R138). -/
def execReadlast16 (s : State) : Host.Outcome State Fault Refusal :=
  runCommand 0x18 (fun s => (readLast16 s).bind fun v s => .ok (respOf v) s) s

/-- READLAST24 (R139). -/
def execReadlast24 (s : State) : Host.Outcome State Fault Refusal :=
  runCommand 0x19 (fun s =>
    (readPending s).bind fun b0 s =>
    (readPending s).bind fun b1 s =>
    (readLast s).bind fun b2 s =>
    .ok (respOf (join24 b0 b1 b2)) s) s

/-- READLAST32 (R140). -/
def execReadlast32 (s : State) : Host.Outcome State Fault Refusal :=
  runCommand 0x1A (fun s =>
    (readPending s).bind fun b0 s =>
    (readPending s).bind fun b1 s =>
    (readPending s).bind fun b2 s =>
    (readLast s).bind fun b3 s =>
    .ok (join32 b0 b1 b2 b3) s) s

/-- WRITEENABLE (R141). -/
def execWriteenable (s : State) : Host.Outcome State Fault Refusal :=
  runCommand 0x1B (fun s => andRespond0 (writeCmd WireOp.writeEnable s)) s

/-- WAKE (R142). -/
def execWake (s : State) : Host.Outcome State Fault Refusal :=
  runCommand 0x1C (fun s => andRespond0 (writeCmd WireOp.releasePd s)) s

/-- SLEEP (R143). -/
def execSleep (s : State) : Host.Outcome State Fault Refusal :=
  runCommand 0x1D (fun s => andRespond0 (writeCmd WireOp.powerDown s)) s

/-- ERASEBLOCK addr (R144). -/
def execEraseblock (addr : Addr) (s : State) : Host.Outcome State Fault Refusal :=
  runCommand 0x1E (fun s => andRespond0 (eraseBlock addr s)) s

/-- WRITEPAGE addr, data (R145). -/
def execWritepage (addr : Addr) (data : List Byte) (s : State) : Host.Outcome State Fault Refusal :=
  runCommand 0x1F (fun s => andRespond0 (writePage addr data s)) s

end Sys2Proof.Machine
end

