-- ==== Sys2Proof/Machine/Blitter.lean ====
section
/-! DEFINITION. Family 43, the bitmap blitter: DRAWBITMAP (`43_blitter.md` R180 to R197), step by step. -/

namespace Sys2Proof.Machine

/-! ## Geometry (steps 2 to 5) -/

/-- `ceil(a / 8)` (`00_scope.md` R8). -/
def ceil8 (a : Int) : Int := -((-a) / 8)

/-- Step 2, the early exit (R184). -/
def offScreen (cfg : Config) (x y bw bh : Int) : Bool :=
  decide (x + bw ≤ 0) || decide (x ≥ cfg.displayW) || decide (y + bh ≤ 0) || decide (y ≥ cfg.displayH)

/-- The bottom-row mask (R189). -/
def bottomMask (variant : BottomMask) (bh : Int) : Byte :=
  let r := (bh % 8).toNat
  match variant with
  | .validRows => (0xFF : Byte) >>> ((8 - r) % 8)
  | .asWritten => (0xFF : Byte) >>> r

/-- Steps 3 to 5: the clips, the derived quantities and the source offset (R183, R185 to R189). -/
def geometry (cfg : Config) (x y bw bh : Int) (addr : Addr) (frame : Byte) (masked : Bool) : Blit :=
  let skipLeft := max 0 (-x)
  let skipTop := if y < 0 then (-y) / 8 else 0
  let renderH := min (y + bh) cfg.displayH - (y + 8 * skipTop)
  let rpf := ceil8 bh
  let off := (frame.toNat * rpf + skipTop) * bw + skipLeft
  { bw := bw
    bh := bh
    skipLeft := skipLeft
    renderW := min (bw - skipLeft) (cfg.displayW - max x 0)
    col0 := max x 0
    skipTop := skipTop
    renderH := renderH
    rows := max 0 (ceil8 renderH)
    rpf := rpf
    stride := if masked then 2 * bw else bw
    src := BitVec.ofInt 24 (addr.toNat + 4 + (if masked then 2 * off else off))
    drow := y / 8 + skipTop
    shift := (y % 8).toNat
    bottom := bottomMask cfg.bottomMask bh }

/-- `RowMask(srcRow)` (R189). -/
def rowMask (b : Blit) (srcRow : Int) : Byte :=
  if srcRow = b.rpf - 1 ∧ b.bh % 8 ≠ 0 then b.bottom else 0xFF

/-! ## One column (step 6) -/

/-- The pixel byte after `reverse`, the copy that `whiteBlack` takes as the mask (R192). -/
def selfByte (mode p : Byte) : Byte := if modeReverse mode then p ^^^ 0xFF else p

/-- The pixel byte as it is composed: zeroed by `black` (R192). -/
def pixelByte (mode p : Byte) : Byte := if modeBlack mode then 0x00 else selfByte mode p

/-- The effective mask (R193): the mask plane, else the pixel byte itself, else the row mask. -/
def effectiveMask (mode p mp row : Byte) : Byte :=
  if modeMasked mode then mp
  else if modeWhiteBlack mode then selfByte mode p
  else row

/-- `Compose(b, m, e)` (R195). -/
def compose (mode b m e : Byte) : Byte :=
  if modeInvert mode then (b &&& m) ^^^ e else ((b ^^^ e) &&& m) ^^^ e

/-- The byte shifted by the sub-row offset, 16 bits (R194). -/
def shifted16 (v : Byte) (shift : Nat) : BitVec 16 := v.setWidth 16 <<< shift
/-- Bits 7:0 of a shifted byte: display row DROW (R194). -/
def shiftLo (v : Byte) (shift : Nat) : Byte := BitVec.extractLsb' 0 8 (shifted16 v shift)
/-- Bits 15:8 of a shifted byte: display row DROW + 1 (R194). -/
def shiftHi (v : Byte) (shift : Nat) : Byte := BitVec.extractLsb' 8 8 (shifted16 v shift)

/-- Display row `r` exists (R195). -/
def rowExists (cfg : Config) (r : Int) : Bool := decide (0 ≤ r) && decide (r < ((cfg.displayH / 8 : Nat) : Int))

/-- The index of a column's byte in display row `r` (R195). -/
def fbIndex (cfg : Config) (b : Blit) (r : Int) (c : Nat) : Nat := (r * cfg.displayW + b.col0 + c).toNat

/-- Read, compose and write one framebuffer byte (R195). -/
def composeAt (mode : Byte) (i : Nat) (v m : Byte) (s : State) : State :=
  fbWrite i (compose mode v m (Mem.read .fb s.fb i)) s

/-- A column's two framebuffer bytes: the primary one where its display row exists, then the spill where the shift is not
zero and the row below exists (R195). -/
def composeColumn (b : Blit) (mode : Byte) (c : Nat) (v m : Byte) (s : State) : State :=
  let s1 :=
    if rowExists s.cfg b.drow then
      composeAt mode (fbIndex s.cfg b b.drow c) (shiftLo v b.shift) (shiftLo m b.shift) s
    else s
  if b.shift ≠ 0 ∧ rowExists s.cfg (b.drow + 1) then
    composeAt mode (fbIndex s.cfg b (b.drow + 1) c) (shiftHi v b.shift) (shiftHi m b.shift) s1
  else s1

/-- The fetch of the mask-plane byte, where the record has one (R191). -/
def fetchMask (mode : Byte) (s : State) : Res Byte :=
  if modeMasked mode then readPending s else .ok 0 s

/-- One column (R191 to R195): pixel first, mask second. -/
def drawColumn (b : Blit) (mode row : Byte) (c : Nat) (s : State) : Res Unit :=
  (readPending s).bind fun p s =>
  (fetchMask mode s).bind fun mp s =>
  .ok () (composeColumn b mode c (pixelByte mode p) (effectiveMask mode p mp row) s)

/-- `count` columns from column `c` on, left to right (R190). -/
def drawColumns (b : Blit) (mode row : Byte) (count c : Nat) (s : State) : Res Unit :=
  match count with
  | 0 => .ok () s
  | k + 1 => (drawColumn b mode row c s).bind fun _ s => drawColumns b mode row k (c + 1) s

/-! ## The rows (steps 6 and 7) -/

/-- The temporaries after a row: SRC and DROW advance (R196). -/
def nextRow (b : Blit) : Blit := { b with src := b.src + BitVec.ofInt 24 b.stride, drow := b.drow + 1 }

/-- One source row: seek, its columns, the read that ends it (R190, R196). -/
def drawRow (mode : Byte) (i : Nat) (b : Blit) (s : State) : Res Unit :=
  (seekData b.src (s.withBlit (some b))).bind fun _ s =>
  (drawColumns b mode (rowMask b (b.skipTop + i)) b.renderW.toNat 0 s).bind fun _ s =>
  (readLast s).bind fun _ s =>
  .ok () s

/-- `count` source rows from row `i` on, top to bottom (R190, R197). -/
def drawRows (mode : Byte) (count i : Nat) (b : Blit) (s : State) : Res Unit :=
  match count with
  | 0 => .ok () s
  | k + 1 => (drawRow mode i b s).bind fun _ s => drawRows mode k (i + 1) (nextRow b) s

/-- Step 1, the header: width and height (R182). -/
def readHeader (addr : Addr) (s : State) : Res (Int × Int) :=
  (seekData addr s).bind fun _ s =>
  (readPending s).bind fun w1 s =>
  (readPending s).bind fun w0 s =>
  (readLast16 s).bind fun h s =>
  .ok (sext16 (join16 w1 w0), sext16 h) s

/-- The body of DRAWBITMAP (R197). -/
def drawBitmap (x y : Half) (addr : Addr) (frame mode : Byte) (s : State) : Res Unit :=
  (readHeader addr s).bind fun wh s =>
    if offScreen s.cfg (sext16 x) (sext16 y) wh.1 wh.2 then .ok () s
    else
      let b := geometry s.cfg (sext16 x) (sext16 y) wh.1 wh.2 addr frame (modeMasked mode)
      (drawRows mode b.rows.toNat 0 b s).bind fun _ s =>
      .ok () (s.withBlit none)

/-- DRAWBITMAP x, y, addr, frame, mode (R180, R197): the phase and INITED are checked before the header read. -/
def execDrawbitmap (x y : Half) (addr : Addr) (frame mode : Byte) (s : State) :
    Host.Outcome State Fault Refusal :=
  runCommand 0x30 (fun s =>
    (require (canOpen s.pstate) s).bind fun _ s =>
    if s.inited then andRespond0 (drawBitmap x y addr frame mode s)
    else .halt (.uninit .data) s) s

end Sys2Proof.Machine
end

