-- ==== Sys2Proof/Machine/Bus.lean ====
section
/-! DEFINITION. Family 40, the bus primitive: SELECT, DESELECT, TRANSFER (`40_bus_primitive.md` R120 to R122). -/

namespace Sys2Proof.Machine

/-- SELECT (R120). -/
def execSelect (s : State) : Host.Outcome State Fault Refusal :=
  runCommand 0x01 (fun s => .ok 0 (select s)) s

/-- DESELECT (R121): a misuse in READING. -/
def execDeselect (s : State) : Host.Outcome State Fault Refusal :=
  runCommand 0x02 (fun s =>
    (require (s.pstate != .reading) s).bind fun _ s =>
    andRespond0 (deselect s)) s

/-- TRANSFER byte (R122): a misuse in READING; the response is the byte received. -/
def execTransfer (byte : Byte) (s : State) : Host.Outcome State Fault Refusal :=
  runCommand 0x03 (fun s =>
    (require (s.pstate != .reading) s).bind fun _ s =>
    (xferTracked byte s).bind fun r s =>
    .ok (respOf r) s) s

end Sys2Proof.Machine
end

