-- ==== Sys2Proof/Machine/Translate.lean ====
section
/-! DEFINITION. Family 42, the address translator (`42_address_dispatch.md` R160 to R165). -/

namespace Sys2Proof.Machine

/-- INIT devDataPage, devSavePage (R160): both pages are resolved once; a second INIT is refused. -/
def execInit (devDataPage devSavePage : Page) (s : State) : Host.Outcome State Fault Refusal :=
  runCommand 0x20 (fun s =>
    if s.inited then .halt .secondInit s
    else
      .ok 0 (s.withPages
        (resolvePage s.cfg s.pm s.cfg.pmDataKey s.cfg.pmDataPage devDataPage)
        (resolvePage s.cfg s.pm s.cfg.pmSaveKey s.cfg.pmSavePage devSavePage))) s

/-- SEEKDATA offset (R161). -/
def execSeekdata (offset : Addr) (s : State) : Host.Outcome State Fault Refusal :=
  runCommand 0x21 (fun s => andRespond0 (seekData offset s)) s

/-- SEEKSAVE offset (R162). -/
def execSeeksave (offset : Addr) (s : State) : Host.Outcome State Fault Refusal :=
  runCommand 0x22 (fun s => andRespond0 (seekSave offset s)) s

/-- SEEKDATAARRAY index, elementSize, extraOffset (R163). -/
def execSeekdataarray (index elementSize : Byte) (extraOffset : Addr) (s : State) :
    Host.Outcome State Fault Refusal :=
  runCommand 0x23 (fun s => andRespond0 (seekData (arrayOffset index elementSize extraOffset) s)) s

/-- ERASESAVEBLOCK logicalPage (R164): the phase is checked before the page. -/
def execErasesaveblock (logicalPage : Page) (s : State) : Host.Outcome State Fault Refusal :=
  runCommand 0x24 (fun s =>
    (require (canOpen s.pstate) s).bind fun _ s =>
    (toSavePage logicalPage s).bind fun a s =>
    andRespond0 (eraseBlock a s)) s

/-- WRITESAVEPAGE logicalPage, data (R165). -/
def execWritesavepage (logicalPage : Page) (data : List Byte) (s : State) :
    Host.Outcome State Fault Refusal :=
  runCommand 0x25 (fun s =>
    (require (canOpen s.pstate) s).bind fun _ s =>
    (toSavePage logicalPage s).bind fun a s =>
    andRespond0 (writePage a data s)) s

end Sys2Proof.Machine
end

