-- ==== Sys2Proof/Machine/Wire.lean ====
section
/-! DEFINITION. The nine wire opcodes of `30_encoding.md` R101 as instructions: the engine sends the whole frame, opened by
`S` and closed by `D`, and the flash part does what `20_memory.md` R69 to R76 say of it (log 3). -/

namespace Sys2Proof.Machine

/-- OP_RELEASE_PD (`20_memory.md` R75). -/
def execOpReleasePd (s : State) : Host.Outcome State Fault Refusal := runFrame WireOp.releasePd [] s

/-- OP_POWER_DOWN (`20_memory.md` R75). -/
def execOpPowerDown (s : State) : Host.Outcome State Fault Refusal := runFrame WireOp.powerDown [] s

/-- OP_WRITE_ENABLE (`20_memory.md` R72). -/
def execOpWriteEnable (s : State) : Host.Outcome State Fault Refusal := runFrame WireOp.writeEnable [] s

/-- OP_READ, address, dummy bytes (`20_memory.md` R71). -/
def execOpRead (addr : Addr) (dummies : List Byte) (s : State) : Host.Outcome State Fault Refusal :=
  runFrame WireOp.read ([addrHi addr, addrMid addr, addrLo addr] ++ dummies) s

/-- OP_WRITE, address, payload (`20_memory.md` R73); its value is the parameter OP_WRITE (`00_scope.md` R6, note). -/
def execOpWrite (addr : Addr) (data : List Byte) (s : State) : Host.Outcome State Fault Refusal :=
  runFrame s.cfg.opWrite ([addrHi addr, addrMid addr, addrLo addr] ++ data) s

/-- OP_ERASE, address (`20_memory.md` R74). -/
def execOpErase (addr : Addr) (s : State) : Host.Outcome State Fault Refusal :=
  runFrame WireOp.erase [addrHi addr, addrMid addr, addrLo addr] s

/-- OP_JEDEC_ID, one dummy byte per reply byte (`20_memory.md` R76; `41_protocol_engine.md` R149). -/
def execOpJedecId (dummies : List Byte) (s : State) : Host.Outcome State Fault Refusal :=
  runFrame WireOp.jedecId dummies s

/-- OP_READ_STATUS1, one dummy byte per reply byte (`20_memory.md` R76; `41_protocol_engine.md` R150). -/
def execOpReadStatus1 (dummies : List Byte) (s : State) : Host.Outcome State Fault Refusal :=
  runFrame WireOp.readStatus1 dummies s

/-- OP_READ_STATUS2, one dummy byte per reply byte (`20_memory.md` R76; `41_protocol_engine.md` R150). -/
def execOpReadStatus2 (dummies : List Byte) (s : State) : Host.Outcome State Fault Refusal :=
  runFrame WireOp.readStatus2 dummies s

end Sys2Proof.Machine
end

