-- ==== Sys2Proof/Machine/Dispatch.lean ====
section
/-! DEFINITION. The meaning of every instruction: one arm per constructor, each one call of the instruction's own meaning. -/

namespace Sys2Proof.Machine

def exec (i : Instr) (s : State) : Host.Outcome State Fault Refusal :=
  match i with
  | .select => Sys2Proof.Machine.execSelect s
  | .deselect => Sys2Proof.Machine.execDeselect s
  | .transfer byte => Sys2Proof.Machine.execTransfer byte s
  | .writecmd opcode => Sys2Proof.Machine.execWritecmd opcode s
  | .seek opcode addr => Sys2Proof.Machine.execSeek opcode addr s
  | .beginread addr => Sys2Proof.Machine.execBeginread addr s
  | .readpending => Sys2Proof.Machine.execReadpending s
  | .readlast => Sys2Proof.Machine.execReadlast s
  | .readpending16 => Sys2Proof.Machine.execReadpending16 s
  | .readpending24 => Sys2Proof.Machine.execReadpending24 s
  | .readpending32 => Sys2Proof.Machine.execReadpending32 s
  | .readlast16 => Sys2Proof.Machine.execReadlast16 s
  | .readlast24 => Sys2Proof.Machine.execReadlast24 s
  | .readlast32 => Sys2Proof.Machine.execReadlast32 s
  | .writeenable => Sys2Proof.Machine.execWriteenable s
  | .wake => Sys2Proof.Machine.execWake s
  | .sleep => Sys2Proof.Machine.execSleep s
  | .eraseblock addr => Sys2Proof.Machine.execEraseblock addr s
  | .writepage addr data => Sys2Proof.Machine.execWritepage addr data s
  | .init devDataPage devSavePage => Sys2Proof.Machine.execInit devDataPage devSavePage s
  | .seekdata offset => Sys2Proof.Machine.execSeekdata offset s
  | .seeksave offset => Sys2Proof.Machine.execSeeksave offset s
  | .seekdataarray index elementSize extraOffset => Sys2Proof.Machine.execSeekdataarray index elementSize extraOffset s
  | .erasesaveblock logicalPage => Sys2Proof.Machine.execErasesaveblock logicalPage s
  | .writesavepage logicalPage data => Sys2Proof.Machine.execWritesavepage logicalPage data s
  | .drawbitmap x y addr frame mode => Sys2Proof.Machine.execDrawbitmap x y addr frame mode s
  | .opReleasePd => Sys2Proof.Machine.execOpReleasePd s
  | .opPowerDown => Sys2Proof.Machine.execOpPowerDown s
  | .opWriteEnable => Sys2Proof.Machine.execOpWriteEnable s
  | .opRead addr dummies => Sys2Proof.Machine.execOpRead addr dummies s
  | .opWrite addr data => Sys2Proof.Machine.execOpWrite addr data s
  | .opErase addr => Sys2Proof.Machine.execOpErase addr s
  | .opJedecId dummies => Sys2Proof.Machine.execOpJedecId dummies s
  | .opReadStatus1 dummies => Sys2Proof.Machine.execOpReadStatus1 dummies s
  | .opReadStatus2 dummies => Sys2Proof.Machine.execOpReadStatus2 dummies s

end Sys2Proof.Machine
end

