-- ==== Sys2Proof/Machine/Turn.lean ====
section
/-! DEFINITION. One turn of the machine: HOST's next move is taken (`00_scope.md` R5; `30_encoding.md` R97;
`70_reset_and_hazards.md` R266). The step calls this. -/

namespace Sys2Proof.Machine

/-- Why the machine takes no further move but a reset: a command that never ends (`60_exceptions.md` R226), the mark FAULT or
the mark REFUSED (R230). -/
def State.stopped (s : State) : Option (Host.Outcome State Fault Refusal) :=
  if s.stuck then some (.fault .busHang)
  else
    match s.fault with
    | some f => some (.fault f)
    | none =>
      match s.refused with
      | some r => some (.refused r)
      | none => none

/-- An instruction is decoded and run; an encoding that names none is refused (`60_exceptions.md` R228, check 1). -/
def runGiven (what : Encoded) (s : State) : Host.Outcome State Fault Refusal :=
  match decode s.cfg.opWrite what with
  | .ok i => exec i s
  | .error e => .next (s.refuse e)

/-- HOST writes a framebuffer byte between two commands (`70_reset_and_hazards.md` R262, R266; log 19). -/
def hostFbWrite (i : Nat) (v : Byte) (s : State) : Host.Outcome State Fault Refusal :=
  if i < s.cfg.fbBytes then .next (fbWrite i v s) else .fault (.framebufferIndex i)

/-- A move of HOST. -/
def takeMove (m : HostMove) (s : State) : Host.Outcome State Fault Refusal :=
  match m with
  | .give what => runGiven what s
  | .wait => .next (shifterStep s)
  | .fbWrite i v => hostFbWrite i v s
  | .reset => .next s.resetEvent

/-- One turn. A reset is taken at once, whatever the machine was doing (`70_reset_and_hazards.md` R250). Otherwise a stopped
machine answers its verdict; a machine with no move pending lets SHIFTER complete the transfer in flight (log 18). -/
def turn (s : State) : Host.Outcome State Fault Refusal :=
  match s.host with
  | .reset :: rest => takeMove .reset (s.withHost rest)
  | moves =>
    match s.stopped with
    | some verdict => verdict
    | none =>
      match moves with
      | [] => .next (shifterStep s)
      | m :: rest => takeMove m (s.withHost rest)

/-- HOST's next move becomes the giving of this encoding. -/
def State.giveNext (s : State) (what : Encoded) : State := s.withHost (.give what :: s.host)

end Sys2Proof.Machine
end

