-- ==== Sys2Proof/Machine/Step.lean ====
section
/-! DEFINITION. The step of the machine, and the state whose next step runs a given table word. -/

namespace Sys2Proof.Machine

/-- One step: one move of HOST, taken to its end (`00_scope.md` R5: one host command is one instruction). -/
def step (s : State) : Host.Outcome State Fault Refusal := turn s

/-- The state in which HOST's next move is to give the table word (log 2, log 28). -/
def State.withFetchWord (s : State) (nbits w : Nat) : State := s.giveNext (tableWord nbits w)

end Sys2Proof.Machine
end

