-- ==== Sys2Proof/Safety.lean ====
section
/-! DEFINITION. What counts as a good state and a finished run: the invariants of `10_state.md` R36, the canonical form of the
three memories, and the end of a run (`70_reset_and_hazards.md` R254). -/

namespace Sys2Proof.Machine

/-- No verdict has been recorded (`60_exceptions.md` R220). -/
def State.clear (s : State) : Bool := !s.stuck && s.fault.isNone && s.refused.isNone

/-- The bus is closed: CS = 0, PSTATE = IDLE, INFLIGHT = 0 (`70_reset_and_hazards.md` R254). -/
def State.closed (s : State) : Bool := !s.cs && s.pstate == .idle && !s.inflight

/-- `S` and `D` alternate, starting from level `cs`, and every `T` whose answer is not a draw lies between an `S` and the next
`D`; the answer is the level of CS after the trace (`10_state.md` R36, item 4). -/
def traceLevel (cs : Bool) (t : List Event) : Option Bool :=
  match t with
  | [] => some cs
  | .sel :: rest => if cs then none else traceLevel true rest
  | .desel :: rest => if cs then traceLevel false rest else none
  | .xfer _ _ drawn :: rest => if cs || drawn then traceLevel cs rest else none

/-- The bus invariants (`10_state.md` R36, items 1 to 4). -/
def State.busInv (s : State) : Bool :=
  (s.cs == (s.pstate != .idle)) &&
  (!(s.pstate == .reading) || s.cmdop == WireOp.read) &&
  (!s.inflight || s.pstate == .reading) &&
  (traceLevel false s.trace == some s.cs)

/-- Engine and part agree on the open frame: in IDLE and SELECTED the part has received no byte of it, in CMD_OPEN and READING
it has received one at least, and the first was CMDOP (`10_state.md` R24; `20_memory.md` R69, R70). A part whose contract was
broken no longer keeps the opcode (`20_memory.md` R78). -/
def State.frameInv (s : State) : Bool :=
  if canOpen s.pstate then s.flash.n == 0
  else decide (1 ≤ s.flash.n) && (s.flash.bad || s.flash.op == s.cmdop)

/-- The three memories are in canonical form, the framebuffer and the flash array hold no address beyond their size
(`20_memory.md` R50 to R52), and the cursor lies below FLASH_BYTES (R68). -/
def State.memInv (s : State) : Bool :=
  (Mem.wf .flash s.flash.mem && Mem.below s.flash.mem s.cfg.flashBytes) &&
  (Mem.wf .fb s.fb && Mem.below s.fb s.cfg.fbBytes) &&
  Mem.wf .pm s.pm &&
  decide (s.flash.cur.toNat < s.cfg.flashBytes)

/-- The invariant of a run: the parameters are in range, the memories are canonical, a deselected part has received no byte,
and as long as no verdict is recorded the bus invariants hold ("as long as FAULT is clear", `10_state.md` R36) and no blit is
under way (R27). -/
def State.inv (s : State) : Bool :=
  s.cfg.wf && s.memInv && (s.cs || s.flash.n == 0) &&
  (!s.clear || (s.busInv && s.frameInv && s.blit.isNone))

/-! ## When a command runs to its end -/

/-- A transfer can be made: none is in flight, and SHIFTER completes one (`00_scope.md` R10). -/
def State.canTransfer (s : State) : Bool := s.cfg.busOk && !s.inflight

/-- A wire command can be opened: the phase is IDLE or SELECTED with CS as the phase says and no byte of a frame sent
(`10_state.md` R23, R36; `41_protocol_engine.md` R147), a transfer can be made, and contract 3 of the part cannot be broken:
it is awake, or it does not enforce its contracts (`20_memory.md` R78). -/
def State.canBegin (s : State) : Bool :=
  s.canTransfer && canOpen s.pstate && (s.cs == (s.pstate == .selected)) && s.flash.n == 0 &&
  (!s.cfg.strict || !s.flash.pd)

/-- A frame with the opcode `op` can be opened: as `canBegin`, but a part that enforces its contracts and sleeps is in the way
of a read, write or erase frame only (`20_memory.md` R78, contract 3). -/
def State.canBeginFrame (op : Byte) (s : State) : Bool :=
  s.canTransfer && canOpen s.pstate && (s.cs == (s.pstate == .selected)) && s.flash.n == 0 &&
  (!s.cfg.strict || !s.flash.pd || !hasAddress s.cfg op)

/-- `Program()` with this payload meets a byte that is not 0xFF (`20_memory.md` R73, R78): in the array, or left by an earlier
byte of the payload with the same address. -/
def meetsUnerased (cfg : Config) (m : Mem) (addr : Nat) (data : List Byte) : Prop :=
  ∃ k : Nat, k < data.length ∧
    (Mem.read .flash m (programAddr cfg.flashBytes addr k) ≠ 0xFF ∨
      ∃ j : Nat, j < k ∧ programAddr cfg.flashBytes addr j = programAddr cfg.flashBytes addr k ∧ data.getD j 0 ≠ 0xFF)

/-- The `D` that closes the part's frame breaks contract 2 (`20_memory.md` R70, R73, R78). -/
def FlashPart.breaksErasure (cfg : Config) (f : FlashPart) : Prop :=
  cfg.strict = true ∧ f.bad = false ∧ f.ign = false ∧ f.wel = true ∧ f.op = cfg.opWrite ∧ 5 ≤ f.n ∧
    meetsUnerased cfg f.mem f.addr.toNat f.buf

/-- A byte of a pipelined read can be harvested: the phase is READING with CS asserted and a frame open at the part, and
SHIFTER completes a transfer (`10_state.md` R23; `41_protocol_engine.md` R133, R134). A part that enforces its contracts is
not in a write frame, as it never is in READING. -/
def State.canHarvest (s : State) : Bool :=
  s.cfg.busOk && s.pstate == .reading && s.cs && decide (1 ≤ s.flash.n) &&
  (!s.cfg.strict || s.flash.bad || s.flash.op != s.cfg.opWrite)

/-- The byte of a pipelined read that waits to be harvested: in flight, or already in SDR (`10_state.md` R23). -/
def State.outstanding (s : State) : Byte := if s.inflight then s.pending else s.sdr

/-- A run of instructions, each completing without a verdict; `none` where one does not. -/
def runList (is : List Instr) (s : State) : Option State :=
  match is with
  | [] => some s
  | i :: rest =>
    match exec i s with
    | .next t => if t.clear then runList rest t else none
    | .fault _ => none
    | .refused _ => none

/-! ## What is seen on the wire -/

/-- An event as the notation of `00_scope.md` R11 shows it: an answer that the rules leave as `any8` is not shown (a 0 stands
in its place). -/
def Event.seen : Event → Event
  | .sel => .sel
  | .desel => .desel
  | .xfer tx rx drawn => if drawn then .xfer tx 0 true else .xfer tx rx false

/-- The trace as the notation of R11 shows it. -/
def State.wire (s : State) : List Event := s.trace.map Event.seen

/-- Everything but the bus, the part, the history and the draws is as before: the pages, INITED, the blitter's temporaries,
the marks, the framebuffer, the program memory, the parameters and HOST's further moves. -/
def State.kept (s t : State) : Prop :=
  t.dataPage = s.dataPage ∧ t.savePage = s.savePage ∧ t.inited = s.inited ∧ t.blit = s.blit ∧
  t.fault = s.fault ∧ t.refused = s.refused ∧ t.stuck = s.stuck ∧ t.fb = s.fb ∧ t.pm = s.pm ∧
  t.cfg = s.cfg ∧ t.host = s.host

/-- The `S` that opens a frame, where CS is not asserted yet (`40_bus_primitive.md` R120). -/
def State.opening (s : State) : List Event := if s.cs then [] else [.sel]

/-- From `s` to `t` the engine opened a frame, sent the opcode `op` and the bytes `rest`, and left the frame open; `given` are
the responses it gave (`41_protocol_engine.md` R131; `10_state.md` R24). -/
structure FrameOpened (op : Byte) (rest : List Byte) (given : List Resp) (s t : State) : Prop where
  cs : t.cs = true
  inflight : t.inflight = false
  pstate : t.pstate = .cmdOpen
  cmdop : t.cmdop = op
  we : t.we = s.we
  responses : t.responses = s.responses ++ given
  flash : t.flash = s.flash.feed s.cfg (op :: rest)
  wire : t.wire = s.wire ++ (s.opening ++ s.flash.talk s.cfg (op :: rest))
  kept : s.kept t

/-- From `s` to `t` the engine sent one whole frame, `S`, the opcode `op`, the bytes `rest`, `D` (`30_encoding.md` R91 to R93),
and the part took it; WE is as `10_state.md` R25 says. -/
structure FrameSent (op : Byte) (rest : List Byte) (given : List Resp) (s t : State) : Prop where
  cs : t.cs = false
  inflight : t.inflight = false
  pstate : t.pstate = .idle
  cmdop : t.cmdop = op
  we : t.we = weAfterClose s.cfg.opWrite .cmdOpen op s.we
  responses : t.responses = s.responses ++ given
  flash : t.flash = (s.flash.feed s.cfg (op :: rest)).deselect s.cfg
  wire : t.wire = s.wire ++ (s.opening ++ s.flash.talk s.cfg (op :: rest) ++ [.desel])
  kept : s.kept t

/-- From `s` to `t` the engine opened a pipelined read at the physical address `a` and issued the first dummy byte
(`41_protocol_engine.md` R132): the transfer is in flight, and what the part answered to it is outstanding. -/
structure ReadOpened (a : Addr) (given : List Resp) (s t : State) : Prop where
  cs : t.cs = true
  inflight : t.inflight = true
  pstate : t.pstate = .reading
  cmdop : t.cmdop = WireOp.read
  we : t.we = s.we
  responses : t.responses = s.responses ++ given
  flash : t.flash = s.flash.feed s.cfg [WireOp.read, addrHi a, addrMid a, addrLo a, dummyByte]
  wire : t.wire =
    s.wire ++ (s.opening ++ s.flash.talk s.cfg [WireOp.read, addrHi a, addrMid a, addrLo a, dummyByte])
  outstanding : ∀ r : Byte,
    ((s.flash.feed s.cfg [WireOp.read, addrHi a, addrMid a, addrLo a]).exchange s.cfg dummyByte).1 = some r →
      t.outstanding = r
  kept : s.kept t

/-- From `s` to `t` one byte of a pipelined read was harvested and the next dummy byte issued (`41_protocol_engine.md` R133). -/
structure ByteHarvested (given : List Resp) (s t : State) : Prop where
  cs : t.cs = true
  inflight : t.inflight = true
  sdr : t.sdr = s.outstanding
  pstate : t.pstate = .reading
  cmdop : t.cmdop = s.cmdop
  we : t.we = s.we
  responses : t.responses = s.responses ++ given
  flash : t.flash = s.flash.feed s.cfg [dummyByte]
  wire : t.wire = s.wire ++ s.flash.talk s.cfg [dummyByte]
  outstanding : ∀ r : Byte, (s.flash.exchange s.cfg dummyByte).1 = some r → t.outstanding = r
  kept : s.kept t

/-- From `s` to `t` the last byte of a pipelined read was harvested and the frame closed (`41_protocol_engine.md` R134). -/
structure ReadEnded (given : List Resp) (s t : State) : Prop where
  cs : t.cs = false
  inflight : t.inflight = false
  sdr : t.sdr = s.outstanding
  pstate : t.pstate = .idle
  cmdop : t.cmdop = s.cmdop
  we : t.we = weAfterClose s.cfg.opWrite .reading s.cmdop s.we
  responses : t.responses = s.responses ++ given
  flash : t.flash = s.flash.deselect s.cfg
  wire : t.wire = s.wire ++ [.desel]
  kept : s.kept t

/-! ## What the statements name -/

/-- The OP values of `30_encoding.md` R100; every other one is reserved (R102). -/
def definedOps : List Byte :=
  [0x01, 0x02, 0x03, 0x10, 0x11, 0x12, 0x13, 0x14, 0x15, 0x16, 0x17, 0x18, 0x19, 0x1A, 0x1B, 0x1C, 0x1D, 0x1E, 0x1F,
   0x20, 0x21, 0x22, 0x23, 0x24, 0x25, 0x30]

/-- The bits of the operand field that the format of `op` uses (`30_encoding.md` R95). -/
def usedBits (op : Byte) : CmdWord :=
  match op.toNat with
  | 0x03 => 0xFF
  | 0x10 => 0xFF
  | 0x11 => 0xFFFFFFFF
  | 0x12 => 0xFFFFFF
  | 0x1E => 0xFFFFFF
  | 0x1F => 0xFFFFFF
  | 0x20 => 0xFFFFFFFF
  | 0x21 => 0xFFFFFF
  | 0x22 => 0xFFFFFF
  | 0x23 => 0xFFFFFFFFFF
  | 0x24 => 0xFFFF
  | 0x25 => 0xFFFF
  | 0x30 => 0xFFFFFFFFFFFFFFFFFF
  | _ => 0

/-- The three address bytes as the wire carries them (`30_encoding.md` R98). -/
def wireAddr (a : Addr) : List Byte :=
  [BitVec.extractLsb' 16 8 a, BitVec.extractLsb' 8 8 a, BitVec.extractLsb' 0 8 a]

/-- The OP of a host command (`30_encoding.md` R100); none for a wire opcode. -/
def commandOp : Instr → Option Byte
  | .select => some 0x01
  | .deselect => some 0x02
  | .transfer _ => some 0x03
  | .writecmd _ => some 0x10
  | .seek _ _ => some 0x11
  | .beginread _ => some 0x12
  | .readpending => some 0x13
  | .readlast => some 0x14
  | .readpending16 => some 0x15
  | .readpending24 => some 0x16
  | .readpending32 => some 0x17
  | .readlast16 => some 0x18
  | .readlast24 => some 0x19
  | .readlast32 => some 0x1A
  | .writeenable => some 0x1B
  | .wake => some 0x1C
  | .sleep => some 0x1D
  | .eraseblock _ => some 0x1E
  | .writepage _ _ => some 0x1F
  | .init _ _ => some 0x20
  | .seekdata _ => some 0x21
  | .seeksave _ => some 0x22
  | .seekdataarray _ _ _ => some 0x23
  | .erasesaveblock _ => some 0x24
  | .writesavepage _ _ => some 0x25
  | .drawbitmap _ _ _ _ _ => some 0x30
  | .opReleasePd => none
  | .opPowerDown => none
  | .opWriteEnable => none
  | .opRead _ _ => none
  | .opWrite _ _ => none
  | .opErase _ => none
  | .opJedecId _ => none
  | .opReadStatus1 _ => none
  | .opReadStatus2 _ => none

/-- The columns of the table of `41_protocol_engine.md` R147 for a command that opens and closes frames of its own. -/
def phaseAfterFrames (p : PState) : Option PState :=
  match p with
  | .idle => some .idle
  | .selected => some .idle
  | .cmdOpen => none
  | .reading => none

/-- The columns for a command that opens a pipelined read. -/
def phaseAfterOpening (p q : PState) : Option PState :=
  match p with
  | .idle => some q
  | .selected => some q
  | .cmdOpen => none
  | .reading => none

/-- The columns for a command that harvests from a pipelined read. -/
def phaseAfterHarvest (p q : PState) : Option PState :=
  match p with
  | .idle => none
  | .selected => none
  | .cmdOpen => none
  | .reading => some q

/-- The table of `41_protocol_engine.md` R147: the phase after a command given in phase `p`, none where the entry is
`fault`. A wire frame given as a whole opens and closes a frame (log 3). -/
def phaseAfter (i : Instr) (p : PState) : Option PState :=
  match i with
  | .select => some (if p = .idle then .selected else p)
  | .deselect => if p = .reading then none else some .idle
  | .transfer _ => if p = .reading then none else some (if p = .selected then .cmdOpen else p)
  | .writecmd _ => phaseAfterFrames p
  | .writeenable => phaseAfterFrames p
  | .wake => phaseAfterFrames p
  | .sleep => phaseAfterFrames p
  | .seek _ _ => phaseAfterOpening p .cmdOpen
  | .beginread _ => phaseAfterOpening p .reading
  | .seekdata _ => phaseAfterOpening p .reading
  | .seeksave _ => phaseAfterOpening p .reading
  | .seekdataarray _ _ _ => phaseAfterOpening p .reading
  | .readpending => phaseAfterHarvest p .reading
  | .readpending16 => phaseAfterHarvest p .reading
  | .readpending24 => phaseAfterHarvest p .reading
  | .readpending32 => phaseAfterHarvest p .reading
  | .readlast => phaseAfterHarvest p .idle
  | .readlast16 => phaseAfterHarvest p .idle
  | .readlast24 => phaseAfterHarvest p .idle
  | .readlast32 => phaseAfterHarvest p .idle
  | .eraseblock _ => phaseAfterFrames p
  | .writepage _ _ => phaseAfterFrames p
  | .erasesaveblock _ => phaseAfterFrames p
  | .writesavepage _ _ => phaseAfterFrames p
  | .drawbitmap _ _ _ _ _ => phaseAfterFrames p
  | .init _ _ => some p
  | .opReleasePd => phaseAfterFrames p
  | .opPowerDown => phaseAfterFrames p
  | .opWriteEnable => phaseAfterFrames p
  | .opRead _ _ => phaseAfterFrames p
  | .opWrite _ _ => phaseAfterFrames p
  | .opErase _ => phaseAfterFrames p
  | .opJedecId _ => phaseAfterFrames p
  | .opReadStatus1 _ => phaseAfterFrames p
  | .opReadStatus2 _ => phaseAfterFrames p

/-- The instructions whose last `D` can close a write or an erase frame; no other one can change the flash array
(`20_memory.md` R65, R70). -/
def mayChangeArray (i : Instr) : Bool :=
  match i with
  | .deselect => true
  | .eraseblock _ => true
  | .writepage _ _ => true
  | .erasesaveblock _ => true
  | .writesavepage _ _ => true
  | .opWrite _ _ => true
  | .opErase _ => true
  | _ => false

/-- DRAWBITMAP is the one instruction that touches FB (`20_memory.md` R52). -/
def drawsBitmap (i : Instr) : Bool :=
  match i with
  | .drawbitmap _ _ _ _ _ => true
  | _ => false

/-- INIT is the one instruction that writes the pages (`10_state.md` R26). -/
def resolvesPages (i : Instr) : Bool :=
  match i with
  | .init _ _ => true
  | _ => false

/-- The instructions that harvest from a pipelined read. -/
def harvests (i : Instr) : Bool :=
  match i with
  | .readpending => true
  | .readlast => true
  | .readpending16 => true
  | .readpending24 => true
  | .readpending32 => true
  | .readlast16 => true
  | .readlast24 => true
  | .readlast32 => true
  | _ => false

/-- The expansions of `30_encoding.md` R106, in the state in which the command is given, and those of the wire frames into
the bus primitives (log 3); none for a command that R106 does not expand. -/
def expansion (s : State) (i : Instr) : Option (List Instr) :=
  let frame (op : Byte) (rest : List Byte) : List Instr := [.select, .transfer op] ++ rest.map Instr.transfer
  match i with
  | .wake => some [.writecmd WireOp.releasePd]
  | .sleep => some [.writecmd WireOp.powerDown]
  | .writeenable => some [.writecmd WireOp.writeEnable]
  | .writecmd op => some (frame op [] ++ [.deselect])
  | .seek op a => some (frame op (wireAddr a))
  | .readpending16 => some [.readpending, .readpending]
  | .readpending24 => some [.readpending, .readpending, .readpending]
  | .readpending32 => some [.readpending, .readpending, .readpending, .readpending]
  | .readlast16 => some [.readpending, .readlast]
  | .readlast24 => some [.readpending, .readpending, .readlast]
  | .readlast32 => some [.readpending, .readpending, .readpending, .readlast]
  | .eraseblock a => some [.writeenable, .seek WireOp.erase a, .deselect]
  | .writepage a data => some ([.writeenable, .seek s.cfg.opWrite a] ++ data.map Instr.transfer ++ [.deselect])
  | .seekdata o => if s.inited then some [.beginread (translate s.dataPage o)] else none
  | .seeksave o => if s.inited then some [.beginread (translate s.savePage o)] else none
  | .seekdataarray i es e => if s.inited then some [.seekdata (arrayOffset i es e)] else none
  | .erasesaveblock p => if s.inited then some [.eraseblock (savePageAddr s.savePage p)] else none
  | .writesavepage p data => if s.inited then some [.writepage (savePageAddr s.savePage p) data] else none
  | .opReleasePd => some (frame WireOp.releasePd [] ++ [.deselect])
  | .opPowerDown => some (frame WireOp.powerDown [] ++ [.deselect])
  | .opWriteEnable => some (frame WireOp.writeEnable [] ++ [.deselect])
  | .opRead a dummies => some (frame WireOp.read (wireAddr a ++ dummies) ++ [.deselect])
  | .opWrite a data => some (frame s.cfg.opWrite (wireAddr a ++ data) ++ [.deselect])
  | .opErase a => some (frame WireOp.erase (wireAddr a) ++ [.deselect])
  | .opJedecId dummies => some (frame WireOp.jedecId dummies ++ [.deselect])
  | .opReadStatus1 dummies => some (frame WireOp.readStatus1 dummies ++ [.deselect])
  | .opReadStatus2 dummies => some (frame WireOp.readStatus2 dummies ++ [.deselect])
  | _ => none

/-- The opcode of the first frame an instruction opens; none for one that opens none. -/
def firstOpcode (cfg : Config) (i : Instr) : Option Byte :=
  match i with
  | .writecmd op => some op
  | .seek op _ => some op
  | .beginread _ => some WireOp.read
  | .writeenable => some WireOp.writeEnable
  | .wake => some WireOp.releasePd
  | .sleep => some WireOp.powerDown
  | .eraseblock _ => some WireOp.writeEnable
  | .writepage _ _ => some WireOp.writeEnable
  | .seekdata _ => some WireOp.read
  | .seeksave _ => some WireOp.read
  | .seekdataarray _ _ _ => some WireOp.read
  | .erasesaveblock _ => some WireOp.writeEnable
  | .writesavepage _ _ => some WireOp.writeEnable
  | .drawbitmap _ _ _ _ _ => some WireOp.read
  | .opReleasePd => some WireOp.releasePd
  | .opPowerDown => some WireOp.powerDown
  | .opWriteEnable => some WireOp.writeEnable
  | .opRead _ _ => some WireOp.read
  | .opWrite _ _ => some cfg.opWrite
  | .opErase _ => some WireOp.erase
  | .opJedecId _ => some WireOp.jedecId
  | .opReadStatus1 _ => some WireOp.readStatus1
  | .opReadStatus2 _ => some WireOp.readStatus2
  | _ => none

/-- The opcode of the second frame an instruction opens, after the write-enable frame (`41_protocol_engine.md` R144, R145). -/
def secondOpcode (cfg : Config) (i : Instr) : Option Byte :=
  match i with
  | .eraseblock _ => some WireOp.erase
  | .writepage _ _ => some cfg.opWrite
  | .erasesaveblock _ => some WireOp.erase
  | .writesavepage _ _ => some cfg.opWrite
  | _ => none

/-- The instructions that translate an address, with the region (`60_exceptions.md` R224). -/
def translates (i : Instr) : Option Region :=
  match i with
  | .seekdata _ => some .data
  | .seekdataarray _ _ _ => some .data
  | .drawbitmap _ _ _ _ _ => some .data
  | .seeksave _ => some .save
  | .erasesaveblock _ => some .save
  | .writesavepage _ _ => some .save
  | _ => none

/-- The data-region byte at logical offset `o`, an integer (`20_memory.md` R61, R71): the flash byte at
`((DATAPAGE << 8) + o) mod FLASH_BYTES`. -/
def State.dataByte (s : State) (o : Int) : Byte :=
  Mem.read .flash s.flash.mem (((s.dataPage.toNat : Int) * 256 + o) % (s.cfg.flashBytes : Int)).toNat

/-- `sext_16` of the header field at offset `o` of the data region (`43_blitter.md` R182). -/
def State.headerField (s : State) (o : Int) : Int := sext16 (join16 (s.dataByte o) (s.dataByte (o + 1)))

/-- The events of one read frame at data-region offset `o` that clocks `n` bytes, after its `S` (`43_blitter.md` R182,
R196). -/
def State.readFrame (s : State) (o : Int) (n : Nat) : List Event :=
  let a : Addr := BitVec.ofInt 24 ((s.dataPage.toNat : Int) * 256 + o)
  ((WireOp.read :: wireAddr a).map fun b => Event.xfer b 0 true) ++
    (List.range n).map (fun k => Event.xfer dummyByte (s.dataByte (o + k)) false) ++ [.desel]

/-- Pixel `(px, py)` of the framebuffer (`20_memory.md` R52). -/
def State.pixel (s : State) (px py : Nat) : Bool :=
  (Mem.read .fb s.fb (py / 8 * s.cfg.displayW + px)).getLsbD (py % 8)

/-- `rowsPerFrame`, the source rows of one frame (`20_memory.md` R56). -/
def rowsPerFrame (bh : Int) : Int := (bh + 7) / 8

/-- The offset, in the data region, of the pixel byte of source row `r`, column `c` of frame `frame` of the record at
`addr` (`20_memory.md` R56). -/
def recordOffset (addr : Addr) (frame : Byte) (masked : Bool) (bw bh r c : Int) : Int :=
  let place := (frame.toNat * rowsPerFrame bh + r) * bw + c
  addr.toNat + 4 + (if masked then 2 * place else place)

/-- The pixel `(px, py)` after DRAWBITMAP, by the record layout of `20_memory.md` R56 and the mode flags of `10_state.md`
R28, without rows, clips or shifts: the pixel is drawn where the bitmap's source rows that reach the viewport cover it
(`43_blitter.md` R184 to R187); then the mask bit decides between the old pixel and the new one (R192, R193, R195). -/
def State.pixelAfterDraw (s : State) (x y : Half) (addr : Addr) (frame mode : Byte) (px py : Nat) : Bool :=
  let bw := s.headerField addr.toNat
  let bh := s.headerField (addr.toNat + 2)
  let c : Int := px - x.toInt
  let r : Int := (py - y.toInt) / 8
  let k : Nat := ((py - y.toInt) % 8).toNat
  let old := s.pixel px py
  if 0 ≤ c ∧ c < bw ∧ y.toInt ≤ py ∧ 8 * r < bh ∧ 0 < y.toInt + bh then
    let masked := mode.getLsbD 4
    let stored := s.dataByte (recordOffset addr frame masked bw bh r c)
    let self := stored.getLsbD k ^^ mode.getLsbD 3
    let bit := self && !mode.getLsbD 2
    let mask :=
      if masked then (s.dataByte (recordOffset addr frame masked bw bh r c + 1)).getLsbD k
      else if mode.getLsbD 0 then self
      else if r = rowsPerFrame bh - 1 ∧ bh % 8 ≠ 0 then (bottomMask s.cfg.bottomMask bh).getLsbD k
      else true
    if mask then (if mode.getLsbD 1 then bit ^^ old else bit) else old
  else old

/-- The events of DRAWBITMAP after its first `S`, with the formulas written out: the header frame (`43_blitter.md` R182); then
nothing where the bounding box misses the viewport (R184); else one frame per source row drawn (R186, R190), from the first
source byte that is drawn (R185, R187), each with one byte more than it draws (R196). -/
def State.drawEvents (s : State) (x y : Half) (addr : Addr) (frame mode : Byte) : List Event :=
  let bw := s.headerField addr.toNat
  let bh := s.headerField (addr.toNat + 2)
  let left := x.toInt
  let top := y.toInt
  let width : Int := s.cfg.displayW
  let height : Int := s.cfg.displayH
  let header := s.readFrame addr.toNat 4
  if left + bw ≤ 0 ∨ width ≤ left ∨ top + bh ≤ 0 ∨ height ≤ top then header
  else
    let skipLeft := if left < 0 then -left else 0
    let columns := min (bw - skipLeft) (width - (if left < 0 then 0 else left))
    let skipTop := if top < 0 then -top / 8 else 0
    let rows := (min (top + bh) height - (top + 8 * skipTop) + 7) / 8
    let bytes := if mode.getLsbD 4 then 2 * columns else columns
    header ++ (List.range rows.toNat).flatMap fun i =>
      .sel :: s.readFrame (recordOffset addr frame (mode.getLsbD 4) bw bh (skipTop + i) skipLeft) (bytes.toNat + 1)

/-- From `s` to `t` a DRAWBITMAP ran to its end: the bus is closed, the part's array, latch and power state are as before,
and nothing of the engine but the bus, the data register, the history, the draws and FB moved (`43_blitter.md` R199). -/
structure BitmapDrawn (s t : State) : Prop where
  closed : t.closed = true
  cmdop : t.cmdop = WireOp.read
  we : t.we = s.we
  responses : t.responses = s.responses ++ [0]
  array : ∀ a : Nat, Mem.read .flash t.flash.mem a = Mem.read .flash s.flash.mem a
  wel : t.flash.wel = s.flash.wel
  pd : t.flash.pd = s.flash.pd
  bad : t.flash.bad = s.flash.bad
  blit : s.blit = none → t.blit = none
  outside : ∀ i : Nat, s.cfg.fbBytes ≤ i → Mem.read .fb t.fb i = Mem.read .fb s.fb i
  kept : s.kept { t with fb := s.fb, blit := s.blit }

/-- A run is finished in good order (`70_reset_and_hazards.md` R254). -/
def State.finished (s : State) : Bool := s.host.isEmpty && s.closed && s.clear

end Sys2Proof.Machine
end

