-- ==== Sys2Proof/WellFormed.lean ====
section
/-! DEFINITION. Which terms of `Instr` the encodings of `30_encoding.md` can write: a page payload has exactly 256 bytes
(R104), a dummy byte is DUMMY (R93), and a read clocks at least one (R93). -/

namespace Sys2Proof

/-- Every byte of the list is DUMMY (`30_encoding.md` R93). -/
def allDummies (bytes : List Byte) : Bool := bytes.all fun b => b == dummyByte

/-- The well-formed instructions. -/
def Instr.wf : Instr → Bool
  | .select => true
  | .deselect => true
  | .transfer _ => true
  | .writecmd _ => true
  | .seek _ _ => true
  | .beginread _ => true
  | .readpending => true
  | .readlast => true
  | .readpending16 => true
  | .readpending24 => true
  | .readpending32 => true
  | .readlast16 => true
  | .readlast24 => true
  | .readlast32 => true
  | .writeenable => true
  | .wake => true
  | .sleep => true
  | .eraseblock _ => true
  | .writepage _ data => data.length == pageBytes
  | .init _ _ => true
  | .seekdata _ => true
  | .seeksave _ => true
  | .seekdataarray _ _ _ => true
  | .erasesaveblock _ => true
  | .writesavepage _ data => data.length == pageBytes
  | .drawbitmap _ _ _ _ _ => true
  | .opReleasePd => true
  | .opPowerDown => true
  | .opWriteEnable => true
  | .opRead _ dummies => !dummies.isEmpty && allDummies dummies
  | .opWrite _ data => data.length == pageBytes
  | .opErase _ => true
  | .opJedecId dummies => allDummies dummies
  | .opReadStatus1 dummies => allDummies dummies
  | .opReadStatus2 dummies => allDummies dummies

end Sys2Proof
end

