-- ==== Sys2Proof/Certificates/Slice0/Obligations.lean ====
section
/-! DEFINITION. The statements about the model, for the provers: encodings, the step, the invariant, the frames of the
instructions, and then each family of the opcode table in the order of the spec. -/

section

open Sys2Proof Sys2Proof.Machine

/-! ## Encoding (`30_encoding.md`) -/

/-- Decoding an encoded well-formed instruction gives it back (R94, R95, R100, R101, R104), for every value of the parameter
OP_WRITE that is told apart from the other eight wire opcodes. -/
def Obligations.DecodeInvertsEncode : Prop :=
  ∀ (opw : Byte) (i : Instr), opw ∉ WireOp.others → i.wf = true → decode opw (encode opw i) = .ok i

/-- Two command words that differ only in unused operand bits are the same command, and so are two DRAWBITMAPs that differ
only in `mode[7:5]` (R103). -/
def Obligations.UnusedOperandBitsIgnored : Prop :=
  (∀ (w v : CmdWord) (payload : List Byte),
      w.op = v.op → w &&& usedBits w.op = v &&& usedBits w.op →
        decodeCommand w payload = decodeCommand v payload) ∧
  (∀ (x y : Half) (addr : Addr) (frame mode other : Byte) (s : State),
      mode &&& 0x1F = other &&& 0x1F →
        exec (.drawbitmap x y addr frame mode) s = exec (.drawbitmap x y addr frame other) s)

/-- Words written out from the tables of R100, R101, R105 decode to the instructions they stand for. -/
def Obligations.WrittenWordsDecode : Prop :=
  decodeTableWord 80 0x0300000000000000009F = some (.transfer 0x9F) ∧
  decodeTableWord 80 0x11000000000003012345 = some (.seek 0x03 0x012345) ∧
  decodeTableWord 80 0x2000000000000100FFF0 = some (.init 0x0100 0xFFF0) ∧
  decodeTableWord 80 0x23000000000300000010 = some (.seekdataarray 3 0 0x000010) ∧
  decodeTableWord 80 0x24000000000000000000 = some (.erasesaveblock 0) ∧
  decodeTableWord 80 0x30FFFD00030000000010 = some (.drawbitmap (-3) 3 0x000000 0 0x10) ∧
  decode WireOp.write (.frame [0x20, 0xFF, 0xF0, 0x00]) = .ok (.opErase 0xFFF000) ∧
  decode WireOp.write (.frame [0x03, 0x01, 0x23, 0x45, 0x00]) = .ok (.opRead 0x012345 [0x00])

/-- A reserved command word, given as HOST's next move, sets REFUSED and changes nothing else (R102). How a refusal shows is
the model's choice: log 1. -/
def Obligations.ReservedCommandRefused : Prop :=
  ∀ (w : CmdWord) (payload : List Byte) (rest : List HostMove) (s : State),
    definedOps.contains w.op = false → s.stopped = none → s.host = .give (.command w payload) :: rest →
      step s = .next { s with host := rest, refused := some (.reservedCommand w.op) }

/-! ## The step -/

/-- The step runs the decoded instruction: where no verdict is recorded and HOST's next move gives an encoding that decodes
to `i`, the step is `exec i` after that move was taken from the agenda. The agenda is the model's choice: log 2. -/
def Obligations.StepRunsDecodedInstruction : Prop :=
  ∀ (what : Encoded) (i : Instr) (rest : List HostMove) (s : State),
    s.stopped = none → s.host = .give what :: rest → decode s.cfg.opWrite what = .ok i →
      step s = exec i { s with host := rest }

/-- A machine that holds a verdict makes no move but a reset (`60_exceptions.md` R226, R230). That the step then answers the
verdict is the model's choice: log 1. -/
def Obligations.MarkedMachineStops : Prop :=
  ∀ s : State, (∀ rest : List HostMove, s.host ≠ .reset :: rest) →
    (s.stuck = true → step s = .fault .busHang) ∧
    (∀ f : Fault, s.stuck = false → s.fault = some f → step s = .fault f) ∧
    (∀ r : Refusal, s.stuck = false → s.fault = none → s.refused = some r → step s = .refused r)

/-- The reset event is taken at once, in every state: the engine is as after reset, the marks are clear and TRACE is empty
(`70_reset_and_hazards.md` R250, R251), a part with a frame open sees a deselect (R253), and the part's write-enable latch is
clear (`10_state.md` R35). That memories, parameters, HOST's further moves and the rest of the part stay is the model's choice:
log 17. -/
def Obligations.ResetEventRestarts : Prop :=
  ∀ (rest : List HostMove) (s : State), s.host = .reset :: rest →
    step s = .next
      { State.reset with
        flash := { (if s.cs then s.flash.deselect s.cfg else s.flash) with wel := false }
        fb := s.fb
        pm := s.pm
        cfg := s.cfg
        host := rest
        draws := s.draws }

/-- The model's choice (log 18, DEDUCED, with log 2): a turn in which HOST waits, or has no move, takes SHIFTER's step at once,
where it is enabled: PENDING moves into SDR and INFLIGHT is cleared where a transfer is in flight on a working bus, and nothing
else changes. `00_scope.md` R5, R10 say that this step, and no other, can happen between two commands. -/
def Obligations.IdleTurnCompletesTransfer : Prop :=
  ∀ (rest : List HostMove) (s : State), s.stopped = none →
    (s.inflight = true ∧ s.cfg.busOk = true →
      (s.host = [] → step s = .next { s with sdr := s.pending, inflight := false }) ∧
      (s.host = .wait :: rest → step s = .next { s with sdr := s.pending, inflight := false, host := rest })) ∧
    (s.inflight = false ∨ s.cfg.busOk = false →
      (s.host = [] → step s = .next s) ∧
      (s.host = .wait :: rest → step s = .next { s with host := rest }))

/-- HOST may write a framebuffer byte between two commands (`70_reset_and_hazards.md` R262, R266): that byte and no other one
changes, and nothing else. An index that the framebuffer does not have stops the machine; that is the model's choice: log 19. -/
def Obligations.HostWritesFramebuffer : Prop :=
  ∀ (i : Nat) (v : Byte) (rest : List HostMove) (s : State),
    s.stopped = none → s.host = .fbWrite i v :: rest →
      (i < s.cfg.fbBytes →
        ∃ t : State, step s = .next t ∧
          (∀ a : Nat, Mem.read .fb t.fb a = if a = i then v else Mem.read .fb s.fb a) ∧
          { t with fb := s.fb } = { s with host := rest }) ∧
      (s.cfg.fbBytes ≤ i → step s = .fault (.framebufferIndex i))

/-- The values that the table of `10_state.md` R35 gives for reset (all marked there as the spec's own decisions). -/
def Obligations.ResetValues : Prop :=
  State.reset.cs = false ∧ State.reset.inflight = false ∧ State.reset.pstate = .idle ∧ State.reset.we = false ∧
  State.reset.inited = false ∧ State.reset.blit = none ∧ State.reset.fault = none ∧ State.reset.refused = none ∧
  State.reset.stuck = false ∧ State.reset.trace = [] ∧ State.reset.flash.wel = false

/-! ## The invariant (`10_state.md` R36) -/

/-- The reset state satisfies the invariant. -/
def Obligations.ResetSatisfiesInvariant : Prop := State.reset.inv = true

/-- Every step keeps the invariant: parameters in range, the three memories canonical and inside their sizes, the cursor below
FLASH_BYTES, a deselected part without a byte of a frame; and, as long as no verdict is recorded, items 1 to 4 of R36, engine
and part agreed on the open frame, and no blit under way. -/
def Obligations.StepKeepsInvariant : Prop :=
  ∀ s t : State, s.inv = true → step s = .next t → t.inv = true

/-! ## What no instruction does -/

/-- After INIT no command changes DATAPAGE or SAVEPAGE (`42_address_dispatch.md` R167); an instruction other than INIT never
does, and only INIT sets INITED (`10_state.md` R26). -/
def Obligations.PagesConstantAfterInit : Prop :=
  ∀ (i : Instr) (s t : State), exec i s = .next t →
    (s.inited = true → t.dataPage = s.dataPage ∧ t.savePage = s.savePage ∧ t.inited = true) ∧
    (resolvesPages i = false → t.dataPage = s.dataPage ∧ t.savePage = s.savePage ∧ t.inited = s.inited)

/-- Only DRAWBITMAP touches the framebuffer (`20_memory.md` R52). No instruction writes program memory (R53), the parameters
(`10_state.md` R38) or HOST's agenda; TRACE and the responses only grow, at their end (R64, item 1). -/
def Obligations.OnlyDrawbitmapTouchesFramebuffer : Prop :=
  ∀ (i : Instr) (s t : State), exec i s = .next t →
    (drawsBitmap i = false → ∀ a : Nat, Mem.read .fb t.fb a = Mem.read .fb s.fb a) ∧
    (∀ a : Nat, Mem.read .pm t.pm a = Mem.read .pm s.pm a) ∧
    t.cfg = s.cfg ∧ t.host = s.host ∧
    (∃ events : List Event, t.trace = s.trace ++ events) ∧
    (∃ given : List Resp, t.responses = s.responses ++ given)

/-- No byte of the flash array changes in an instruction that closes no write frame and no erase frame (`20_memory.md` R59,
R65, R70): all but DESELECT, the erases and the page writes. -/
def Obligations.OnlyClosingFramesChangesFlash : Prop :=
  ∀ (i : Instr) (s t : State), s.inv = true → s.clear = true → mayChangeArray i = false → exec i s = .next t →
    ∀ a : Nat, Mem.read .flash t.flash.mem a = Mem.read .flash s.flash.mem a

/-! ## The bus primitive (`40_bus_primitive.md`) -/

/-- SELECT: chip-select is asserted and the phase is SELECTED; with CS = 1 nothing happens. It responds 0 (R120). -/
def Obligations.SelectOpensBus : Prop :=
  ∀ s : State,
    (s.cs = false →
      exec .select s = .next
        { s with
          cs := true
          pstate := .selected
          trace := s.trace ++ [.sel]
          flash := { s.flash with n := 0 }
          responses := s.responses ++ [0] }) ∧
    (s.cs = true → exec .select s = .next { s with responses := s.responses ++ [0] })

/-- DESELECT: chip-select is deasserted, the part runs `FlashDeselect()`, WE follows the opcode of the frame that closes; with
CS = 0 nothing happens; in READING, or with a transfer in flight, it is a misuse (R121). Where the frame breaks contract 2 of a
part that enforces its contracts (`20_memory.md` R78), FlashContract is recorded after the `D`; that this is a parameter, and
what stands then, is the model's choice: log 14, log 21, log 22. -/
def Obligations.DeselectClosesFrame : Prop :=
  ∀ s : State,
    (s.pstate = .reading →
      exec .deselect s = .next { s with fault := some (.protocolMisuse (.command 0x02) .reading) }) ∧
    (s.pstate ≠ .reading → s.inflight = true →
      exec .deselect s = .next { s with fault := some (.protocolMisuse (.command 0x02) s.pstate) }) ∧
    (s.pstate ≠ .reading → s.inflight = false → s.cs = false →
      exec .deselect s = .next { s with responses := s.responses ++ [0] }) ∧
    (s.pstate ≠ .reading → s.inflight = false → s.cs = true →
      ¬ s.flash.breaksErasure s.cfg →
      exec .deselect s = .next
        { s with
          cs := false
          trace := s.trace ++ [.desel]
          flash := s.flash.deselect s.cfg
          we :=
            if s.pstate = .cmdOpen then
              (if s.cmdop = s.cfg.opWrite ∨ s.cmdop = WireOp.erase then false
               else if s.cmdop = WireOp.writeEnable then true else s.we)
            else s.we
          pstate := .idle
          responses := s.responses ++ [0] }) ∧
    (s.pstate ≠ .reading → s.inflight = false → s.cs = true → s.flash.breaksErasure s.cfg →
      exec .deselect s = .next
        { s with
          cs := false
          trace := s.trace ++ [.desel]
          flash := { s.flash with bad := true, n := 0 }
          fault := some (.flashContract 2 s.cfg.opWrite) })

/-- TRANSFER: one byte out and one byte in; the first byte of a frame is its opcode; the response is the byte received. With
CS = 1 that is the part's answer, with CS = 0 the part sees nothing (R122). In READING it is a misuse. The opcode of a read, a
write or an erase, sent to a part that sleeps and enforces its contracts, is left to `StrictPartFlagsSleepingAccess`. -/
def Obligations.TransferExchangesByte : Prop :=
  ∀ (b : Byte) (s : State),
    (s.pstate = .reading →
      exec (.transfer b) s = .next { s with fault := some (.protocolMisuse (.command 0x03) .reading) }) ∧
    (s.pstate ≠ .reading → s.canTransfer = true →
      (s.cfg.strict = false ∨ s.flash.pd = false ∨ s.flash.bad = true ∨ s.cs = false ∨ 1 ≤ s.flash.n ∨
        hasAddress s.cfg b = false) →
      ∃ (t : State) (drawn : Bool), exec (.transfer b) s = .next t ∧
        t.inflight = false ∧ t.pending = t.sdr ∧
        t.responses = s.responses ++ [t.sdr.setWidth 32] ∧
        t.trace = s.trace ++ [.xfer b t.sdr drawn] ∧
        t.cs = s.cs ∧ t.we = s.we ∧
        t.pstate = (if s.pstate = .selected then .cmdOpen else s.pstate) ∧
        t.cmdop = (if s.pstate = .selected then b else s.cmdop) ∧
        (s.cs = true →
          t.flash = (s.flash.exchange s.cfg b).2 ∧
          (drawn = (s.flash.exchange s.cfg b).1.isNone) ∧
          ∀ r : Byte, (s.flash.exchange s.cfg b).1 = some r → t.sdr = r) ∧
        (s.cs = false → t.flash = s.flash ∧ drawn = true) ∧
        s.kept t)

/-! ## The protocol engine (`41_protocol_engine.md`) -/

/-- WRITECMD sends the one-byte frame of its opcode and responds 0; in CMD_OPEN and READING it is a misuse (R130). A part that
sleeps and enforces its contracts is excepted for the opcode of a read, a write or an erase only. -/
def Obligations.WritecmdSendsOneByteFrame : Prop :=
  ∀ (op : Byte) (s : State),
    (s.canBeginFrame op = true → ∃ t : State, exec (.writecmd op) s = .next t ∧ FrameSent op [] [0] s t) ∧
    (canOpen s.pstate = false →
      exec (.writecmd op) s = .next { s with fault := some (.protocolMisuse (.command 0x10) s.pstate) })

/-- WRITEENABLE, WAKE and SLEEP send the one-byte frames of OP_WRITE_ENABLE, OP_RELEASE_PD, OP_POWER_DOWN and respond 0: WE is
set, the part sets `wel`, clears `pd`, sets `pd`, also a part that sleeps and enforces its contracts wakes; in CMD_OPEN and
READING they are misuses (R141, R142, R143). That SLEEP runs in SELECTED is the model's choice, R143 and R147 against the last
sentence of `60_exceptions.md` R235: log 34. -/
def Obligations.PowerAndLatchCommands : Prop :=
  ∀ s : State,
    (s.cfg.wf = true → s.canBeginFrame WireOp.writeEnable = true →
      ∃ t : State, exec .writeenable s = .next t ∧ FrameSent WireOp.writeEnable [] [0] s t ∧ t.we = true ∧
        (s.flash.bad = false → s.flash.pd = false → t.flash.wel = true)) ∧
    (s.cfg.wf = true → s.canBeginFrame WireOp.releasePd = true →
      ∃ t : State, exec .wake s = .next t ∧ FrameSent WireOp.releasePd [] [0] s t ∧ t.we = s.we ∧
        (s.flash.bad = false → t.flash.pd = false)) ∧
    (s.cfg.wf = true → s.canBeginFrame WireOp.powerDown = true →
      ∃ t : State, exec .sleep s = .next t ∧ FrameSent WireOp.powerDown [] [0] s t ∧ t.we = s.we ∧
        (s.flash.bad = false → t.flash.pd = true)) ∧
    (canOpen s.pstate = false →
      exec .writeenable s = .next { s with fault := some (.protocolMisuse (.command 0x1B) s.pstate) } ∧
      exec .wake s = .next { s with fault := some (.protocolMisuse (.command 0x1C) s.pstate) } ∧
      exec .sleep s = .next { s with fault := some (.protocolMisuse (.command 0x1D) s.pstate) })

/-- SEEK sends its opcode and the three address bytes, the most significant first, and leaves the frame open; the part loads
its cursor where the opcode is OP_READ, OP_WRITE or OP_ERASE; in CMD_OPEN and READING it is a misuse (R131). -/
def Obligations.SeekOpensFrame : Prop :=
  ∀ (op : Byte) (addr : Addr) (s : State),
    (s.canBeginFrame op = true →
      ∃ t : State, exec (.seek op addr) s = .next t ∧ FrameOpened op (wireAddr addr) [0] s t ∧
        (s.flash.bad = false → s.flash.pd = false →
          op = WireOp.read ∨ op = s.cfg.opWrite ∨ op = WireOp.erase →
          t.flash.cur = BitVec.ofNat 24 (addr.toNat % s.cfg.flashBytes))) ∧
    (canOpen s.pstate = false →
      exec (.seek op addr) s = .next { s with fault := some (.protocolMisuse (.command 0x11) s.pstate) })

/-- BEGINREAD opens a pipelined read and issues the first dummy byte without waiting for it; with the part awake the byte at
the address is then outstanding and the cursor is one past it; in CMD_OPEN and READING it is a misuse (R132). -/
def Obligations.BeginreadOpensRead : Prop :=
  ∀ (addr : Addr) (s : State),
    (s.canBegin = true →
      ∃ t : State, exec (.beginread addr) s = .next t ∧ ReadOpened addr [0] s t ∧
        (s.cfg.wf = true → s.flash.bad = false → s.flash.pd = false →
          t.outstanding = Mem.read .flash s.flash.mem (addr.toNat % s.cfg.flashBytes) ∧
          t.flash.cur.toNat = (addr.toNat + 1) % s.cfg.flashBytes)) ∧
    (canOpen s.pstate = false →
      exec (.beginread addr) s = .next { s with fault := some (.protocolMisuse (.command 0x12) s.pstate) })

/-- READPENDING responds the outstanding byte and issues the next dummy byte; in the data phase of a read the next flash byte
is then outstanding and the cursor advances by one; outside READING it is a misuse (R133). -/
def Obligations.ReadpendingHarvestsByte : Prop :=
  ∀ s : State,
    (s.canHarvest = true →
      ∃ t : State, exec .readpending s = .next t ∧ ByteHarvested [s.outstanding.setWidth 32] s t ∧
        (s.cfg.wf = true → s.flash.bad = false → s.flash.ign = false → s.flash.op = WireOp.read → 4 ≤ s.flash.n →
          t.outstanding = Mem.read .flash s.flash.mem s.flash.cur.toNat ∧
          t.flash.cur.toNat = (s.flash.cur.toNat + 1) % s.cfg.flashBytes)) ∧
    (s.pstate ≠ .reading →
      exec .readpending s = .next { s with fault := some (.protocolMisuse (.command 0x13) s.pstate) })

/-- READLAST responds the outstanding byte and closes the frame; WE is unchanged where the frame is a read; outside READING it
is a misuse (R134). -/
def Obligations.ReadlastEndsRead : Prop :=
  ∀ s : State,
    (s.canHarvest = true →
      ∃ t : State, exec .readlast s = .next t ∧ ReadEnded [s.outstanding.setWidth 32] s t ∧
        (s.cfg.wf = true → s.cmdop = WireOp.read → t.we = s.we)) ∧
    (s.pstate ≠ .reading →
      exec .readlast s = .next { s with fault := some (.protocolMisuse (.command 0x14) s.pstate) })

/-- READPENDING16, 24, 32 are two, three, four READPENDING in a row; the response joins the bytes, the first in the most
significant place; outside READING they are misuses (R135, R136, R137). -/
def Obligations.CompositePendingReads : Prop :=
  ∀ s : State,
    (s.canHarvest = true →
      (∃ t u : State, ByteHarvested [] s t ∧
        ByteHarvested [(s.outstanding ++ t.outstanding : BitVec 16).setWidth 32] t u ∧
        exec .readpending16 s = .next u) ∧
      (∃ t u v : State, ByteHarvested [] s t ∧ ByteHarvested [] t u ∧
        ByteHarvested [(s.outstanding ++ t.outstanding ++ u.outstanding : BitVec 24).setWidth 32] u v ∧
        exec .readpending24 s = .next v) ∧
      (∃ t u v w : State, ByteHarvested [] s t ∧ ByteHarvested [] t u ∧ ByteHarvested [] u v ∧
        ByteHarvested [s.outstanding ++ t.outstanding ++ u.outstanding ++ v.outstanding] v w ∧
        exec .readpending32 s = .next w)) ∧
    (s.pstate ≠ .reading →
      exec .readpending16 s = .next { s with fault := some (.protocolMisuse (.command 0x15) s.pstate) } ∧
      exec .readpending24 s = .next { s with fault := some (.protocolMisuse (.command 0x16) s.pstate) } ∧
      exec .readpending32 s = .next { s with fault := some (.protocolMisuse (.command 0x17) s.pstate) })

/-- READLAST16, 24, 32 are one, two, three READPENDING and then a READLAST; the response joins the bytes, the first in the
most significant place; outside READING they are misuses (R138, R139, R140). -/
def Obligations.CompositeLastReads : Prop :=
  ∀ s : State,
    (s.canHarvest = true →
      (∃ t u : State, ByteHarvested [] s t ∧
        ReadEnded [(s.outstanding ++ t.outstanding : BitVec 16).setWidth 32] t u ∧
        exec .readlast16 s = .next u) ∧
      (∃ t u v : State, ByteHarvested [] s t ∧ ByteHarvested [] t u ∧
        ReadEnded [(s.outstanding ++ t.outstanding ++ u.outstanding : BitVec 24).setWidth 32] u v ∧
        exec .readlast24 s = .next v) ∧
      (∃ t u v w : State, ByteHarvested [] s t ∧ ByteHarvested [] t u ∧ ByteHarvested [] u v ∧
        ReadEnded [s.outstanding ++ t.outstanding ++ u.outstanding ++ v.outstanding] v w ∧
        exec .readlast32 s = .next w)) ∧
    (s.pstate ≠ .reading →
      exec .readlast16 s = .next { s with fault := some (.protocolMisuse (.command 0x18) s.pstate) } ∧
      exec .readlast24 s = .next { s with fault := some (.protocolMisuse (.command 0x19) s.pstate) } ∧
      exec .readlast32 s = .next { s with fault := some (.protocolMisuse (.command 0x1A) s.pstate) })

/-- The law of a pipelined read sequence (R146; the spec derives it from R132 to R134 and `20_memory.md` R71): with the part
awake, BEGINREAD, `k` READPENDING and READLAST respond the `k + 1` bytes from the address on, clock exactly `k + 1` dummy
bytes, close the bus and leave the flash array as it was. The wrap past the top of the part is R71 as the model adopts it:
log 15. -/
def Obligations.PipelinedReadLaw : Prop :=
  ∀ (addr : Addr) (k : Nat) (s : State),
    s.cfg.wf = true → s.clear = true → s.canBegin = true → s.flash.pd = false → s.flash.bad = false →
      ∃ t : State,
        runList (.beginread addr :: (List.replicate k .readpending ++ [.readlast])) s = some t ∧
        t.responses = s.responses ++ [0] ++
          (List.range (k + 1)).map (fun j =>
            (Mem.read .flash s.flash.mem ((addr.toNat + j) % s.cfg.flashBytes)).setWidth 32) ∧
        t.wire = s.wire ++ s.opening ++ (WireOp.read :: wireAddr addr).map (fun b => Event.xfer b 0 true) ++
          (List.range (k + 1)).map (fun j =>
            Event.xfer 0x00 (Mem.read .flash s.flash.mem ((addr.toNat + j) % s.cfg.flashBytes)) false) ++ [.desel] ∧
        t.closed = true ∧
        (∀ a : Nat, Mem.read .flash t.flash.mem a = Mem.read .flash s.flash.mem a) ∧
        s.kept t

/-- Host work between two commands of a pipelined read changes nothing in the result (R146, last sentence): whether SHIFTER
has already completed the outstanding transfer cannot be told by a command that harvests it (`10_state.md` R23). -/
def Obligations.IdleTimeInvisibleInRead : Prop :=
  ∀ (i : Instr) (s : State),
    harvests i = true → s.pstate = .reading → s.inflight = true → s.cfg.busOk = true →
      exec i { s with sdr := s.pending, inflight := false } = exec i s

/-- ERASEBLOCK sends the write-enable frame and the erase frame, responds 0 and leaves WE clear; with the part awake every
byte of the block that contains the address reads as erased afterwards and every other byte as before (`20_memory.md` R74);
in CMD_OPEN and READING it is a misuse (R144). -/
def Obligations.EraseblockErasesBlock : Prop :=
  ∀ (addr : Addr) (s : State),
    (s.canBegin = true →
      ∃ m t : State, exec (.eraseblock addr) s = .next t ∧
        FrameSent WireOp.writeEnable [] [] s m ∧ FrameSent WireOp.erase (wireAddr addr) [0] m t ∧ t.we = false ∧
        (s.flash.bad = false → s.flash.pd = false →
          t.flash.wel = false ∧
          ∀ a : Nat, Mem.read .flash t.flash.mem a =
            if blockBase s.cfg addr.toNat ≤ a ∧ a < blockBase s.cfg addr.toNat + s.cfg.eraseBlockBytes then 0xFF
            else Mem.read .flash s.flash.mem a)) ∧
    (canOpen s.pstate = false →
      exec (.eraseblock addr) s = .next { s with fault := some (.protocolMisuse (.command 0x1E) s.pstate) })

/-- WRITEPAGE sends the write-enable frame and the write frame with its payload, responds 0 and leaves WE clear; in CMD_OPEN
and READING it is a misuse (R145). A part that enforces its contracts takes it where no target byte is met unerased, the other
case is `StrictPartFlagsUnerasedWrite`. What the part then holds is `WritepageProgramsPage`. -/
def Obligations.WritepageSendsTwoFrames : Prop :=
  ∀ (addr : Addr) (data : List Byte) (s : State), data.length = pageBytes →
    (s.canBegin = true →
      (s.cfg.strict = false ∨ s.flash.bad = true ∨ ¬ meetsUnerased s.cfg s.flash.mem addr.toNat data) →
      ∃ m t : State, exec (.writepage addr data) s = .next t ∧
        FrameSent WireOp.writeEnable [] [] s m ∧ FrameSent s.cfg.opWrite (wireAddr addr ++ data) [0] m t ∧
        t.we = false) ∧
    (canOpen s.pstate = false →
      exec (.writepage addr data) s = .next { s with fault := some (.protocolMisuse (.command 0x1F) s.pstate) })

/-- WRITEPAGE on an awake part of at least one page: each byte of the page becomes its old value AND its payload byte, the
address wrapping inside the page, and every other byte is as before (`20_memory.md` R73). A part that enforces its contracts
takes it where every target byte is erased (R78). -/
def Obligations.WritepageProgramsPage : Prop :=
  ∀ (addr : Addr) (data : List Byte) (s : State),
    s.cfg.wf = true → 256 ≤ s.cfg.flashBytes → s.canBegin = true → s.flash.bad = false → s.flash.pd = false →
    data.length = pageBytes →
    (s.cfg.strict = false ∨
      ∀ k : Nat, k < 256 → Mem.read .flash s.flash.mem (programAddr s.cfg.flashBytes addr.toNat k) = 0xFF) →
      ∃ t : State, exec (.writepage addr data) s = .next t ∧ t.fault = s.fault ∧ t.flash.wel = false ∧ t.closed = true ∧
        (∀ k : Nat, k < 256 →
          Mem.read .flash t.flash.mem (programAddr s.cfg.flashBytes addr.toNat k) =
            Mem.read .flash s.flash.mem (programAddr s.cfg.flashBytes addr.toNat k) &&& data.getD k 0) ∧
        (∀ a : Nat, (∀ k : Nat, k < 256 → a ≠ programAddr s.cfg.flashBytes addr.toNat k) →
          Mem.read .flash t.flash.mem a = Mem.read .flash s.flash.mem a)

/-- The round trip (`20_memory.md` R66): erase the block, write an aligned page, read the 256 bytes back: the read responds the
payload, also on a part that enforces its contracts. -/
def Obligations.EraseWriteReadRoundTrip : Prop :=
  ∀ (addr : Addr) (data : List Byte) (s : State),
    s.cfg.wf = true → 256 ≤ s.cfg.flashBytes → s.clear = true → s.canBegin = true → s.flash.bad = false →
    s.flash.pd = false → addr.toNat % 256 = 0 → data.length = pageBytes →
      ∃ t : State,
        runList ([.eraseblock addr, .writepage addr data, .beginread addr] ++ List.replicate 255 .readpending ++
          [.readlast]) s = some t ∧
        t.responses = s.responses ++ [0, 0, 0] ++ data.map (fun b => b.setWidth 32) ∧
        t.closed = true

/-- A part that enforces its contracts: a page write that meets a byte that is not erased records FlashContract 2 with the write
opcode (`20_memory.md` R78; `60_exceptions.md` R225), in WRITEPAGE, in WRITESAVEPAGE at the same address, and in a whole
OP_WRITE frame on a part whose latch is set (log 3). That enforcement is a parameter is the model's choice: log 14. -/
def Obligations.StrictPartFlagsUnerasedWrite : Prop :=
  ∀ (addr : Addr) (data : List Byte) (s : State),
    s.cfg.wf = true → s.cfg.strict = true → s.canBegin = true → s.flash.bad = false →
    meetsUnerased s.cfg s.flash.mem addr.toNat data →
      (∃ t : State, exec (.writepage addr data) s = .next t ∧
        t.fault = some (.flashContract 2 s.cfg.opWrite) ∧ t.flash.bad = true ∧ t.responses = s.responses) ∧
      (∀ p : Page, s.inited = true → addr.toNat = (s.savePage.toNat + p.toNat) % 2 ^ 16 * 256 →
        ∃ t : State, exec (.writesavepage p data) s = .next t ∧
          t.fault = some (.flashContract 2 s.cfg.opWrite) ∧ t.flash.bad = true ∧ t.responses = s.responses) ∧
      (s.flash.wel = true →
        ∃ t : State, exec (.opWrite addr data) s = .next t ∧
          t.fault = some (.flashContract 2 s.cfg.opWrite) ∧ t.flash.bad = true ∧ t.responses = s.responses)

/-- A part that enforces its contracts and sleeps: the opcode byte of a read, write or erase frame records FlashContract 3 with
that opcode (`20_memory.md` R78; `60_exceptions.md` R225), nothing more is sent and no response is given. So it is for TRANSFER
of that byte as the first of a frame; for every instruction whose first frame has such an opcode; and for the erases and page
writes, whose write-enable frame the part ignores. That enforcement is a parameter, and that the opcode byte shows the breach,
is the model's choice: log 14, log 21. -/
def Obligations.StrictPartFlagsSleepingAccess : Prop :=
  ∀ s : State, s.cfg.wf = true → s.cfg.strict = true → s.flash.pd = true → s.flash.bad = false → s.flash.n = 0 →
    s.canTransfer = true →
    (∀ b : Byte, b = WireOp.read ∨ b = s.cfg.opWrite ∨ b = WireOp.erase → s.cs = true → s.pstate ≠ .reading →
      ∃ t : State, exec (.transfer b) s = .next t ∧ t.fault = some (.flashContract 3 b) ∧ t.flash.bad = true ∧
        t.responses = s.responses ∧ t.fb = s.fb ∧ t.wire = s.wire ++ [.xfer b 0 true]) ∧
    (∀ (i : Instr) (op : Byte), op = WireOp.read ∨ op = s.cfg.opWrite ∨ op = WireOp.erase →
      canOpen s.pstate = true → s.cs = (s.pstate == .selected) → (translates i = none ∨ s.inited = true) →
      (firstOpcode s.cfg i = some op →
        ∃ t : State, exec i s = .next t ∧ t.fault = some (.flashContract 3 op) ∧ t.flash.bad = true ∧
          t.responses = s.responses ∧ t.fb = s.fb ∧ t.wire = s.wire ++ s.opening ++ [.xfer op 0 true]) ∧
      (secondOpcode s.cfg i = some op →
        ∃ t : State, exec i s = .next t ∧ t.fault = some (.flashContract 3 op) ∧ t.flash.bad = true ∧
          t.responses = s.responses ∧ t.fb = s.fb ∧
          t.wire = s.wire ++ s.opening ++ [.xfer WireOp.writeEnable 0 true, .desel, .sel, .xfer op 0 true]))

/-! ## The address translator (`42_address_dispatch.md`) -/

/-- INIT resolves each page from its slot where the key matches, else from the default, and responds 0, in every phase; a
second INIT is refused and changes nothing else (R160). -/
def Obligations.InitResolvesPages : Prop :=
  ∀ (devData devSave : Page) (s : State),
    (s.inited = false →
      exec (.init devData devSave) s = .next
        { s with
          dataPage :=
            if pmKey s.cfg s.pm s.cfg.pmDataKey = 0x9518 then
              Mem.read .pm s.pm s.cfg.pmDataPage ++ Mem.read .pm s.pm (s.cfg.pmDataPage + 1)
            else devData
          savePage :=
            if pmKey s.cfg s.pm s.cfg.pmSaveKey = 0x9518 then
              Mem.read .pm s.pm s.cfg.pmSavePage ++ Mem.read .pm s.pm (s.cfg.pmSavePage + 1)
            else devSave
          inited := true
          responses := s.responses ++ [0] }) ∧
    (s.inited = true → exec (.init devData devSave) s = .next { s with refused := some .secondInit })

/-- A key slot as INIT reads it (`20_memory.md` R53): the two bytes at its offset and the next one, joined in the order of the
parameter. That the byte order is a parameter is the model's choice: log 12. -/
def Obligations.KeySlotJoinsTwoBytes : Prop :=
  ∀ (cfg : Config) (pm : Mem) (a : Nat),
    (cfg.pmKeyOrder = .little →
      (pmKey cfg pm a).toNat = (Mem.read .pm pm (a + 1)).toNat * 256 + (Mem.read .pm pm a).toNat) ∧
    (cfg.pmKeyOrder = .big →
      (pmKey cfg pm a).toNat = (Mem.read .pm pm a).toNat * 256 + (Mem.read .pm pm (a + 1)).toNat)

/-- SEEKDATA and SEEKSAVE open a pipelined read at the base page times 256 plus the offset, modulo 2^24, and respond 0; in
CMD_OPEN and READING they are misuses, before INIT they record UninitialisedPage, in that order and with nothing sent
(R161, R162). -/
def Obligations.SeekdataSeeksaveOpenRead : Prop :=
  ∀ (offset : Addr) (s : State),
    (s.canBegin = true → s.inited = true →
      (∃ (a : Addr) (t : State), a.toNat = (s.dataPage.toNat * 256 + offset.toNat) % 2 ^ 24 ∧
        exec (.seekdata offset) s = .next t ∧ ReadOpened a [0] s t) ∧
      (∃ (a : Addr) (t : State), a.toNat = (s.savePage.toNat * 256 + offset.toNat) % 2 ^ 24 ∧
        exec (.seeksave offset) s = .next t ∧ ReadOpened a [0] s t)) ∧
    (canOpen s.pstate = false →
      exec (.seekdata offset) s = .next { s with fault := some (.protocolMisuse (.command 0x21) s.pstate) } ∧
      exec (.seeksave offset) s = .next { s with fault := some (.protocolMisuse (.command 0x22) s.pstate) }) ∧
    (canOpen s.pstate = true → s.inited = false →
      exec (.seekdata offset) s = .next { s with fault := some (.uninitialisedPage .data) } ∧
      exec (.seeksave offset) s = .next { s with fault := some (.uninitialisedPage .save) })

/-- SEEKDATAARRAY opens a pipelined read at the data page times 256 plus index times element size plus the extra offset,
modulo 2^24, an element size of 0 standing for 256; its faults are those of SEEKDATA (R163). -/
def Obligations.SeekdataarrayOpensRead : Prop :=
  ∀ (index elementSize : Byte) (extraOffset : Addr) (s : State),
    (s.canBegin = true → s.inited = true →
      ∃ (a : Addr) (t : State),
        a.toNat = (s.dataPage.toNat * 256 +
          (index.toNat * (if elementSize = 0 then 256 else elementSize.toNat) + extraOffset.toNat)) % 2 ^ 24 ∧
        exec (.seekdataarray index elementSize extraOffset) s = .next t ∧ ReadOpened a [0] s t) ∧
    (canOpen s.pstate = false →
      exec (.seekdataarray index elementSize extraOffset) s =
        .next { s with fault := some (.protocolMisuse (.command 0x23) s.pstate) }) ∧
    (canOpen s.pstate = true → s.inited = false →
      exec (.seekdataarray index elementSize extraOffset) s =
        .next { s with fault := some (.uninitialisedPage .data) })

/-- ERASESAVEBLOCK and WRITESAVEPAGE are ERASEBLOCK and WRITEPAGE at the save page plus the logical page, modulo 2^16, times
256: the same next state, the same two frames; in CMD_OPEN and READING they are misuses, before INIT they record
UninitialisedPage, in that order and with nothing sent (R164, R165). -/
def Obligations.SaveRegionEraseAndWrite : Prop :=
  ∀ (p : Page) (data : List Byte) (s : State), data.length = pageBytes →
    (s.canBegin = true → s.inited = true →
      ∃ a : Addr, a.toNat = (s.savePage.toNat + p.toNat) % 2 ^ 16 * 256 ∧
        exec (.erasesaveblock p) s = exec (.eraseblock a) s ∧
        exec (.writesavepage p data) s = exec (.writepage a data) s ∧
        (∃ m t : State, exec (.erasesaveblock p) s = .next t ∧
          FrameSent WireOp.writeEnable [] [] s m ∧ FrameSent WireOp.erase (wireAddr a) [0] m t ∧ t.we = false) ∧
        ((s.cfg.strict = false ∨ s.flash.bad = true ∨ ¬ meetsUnerased s.cfg s.flash.mem a.toNat data) →
          ∃ m t : State, exec (.writesavepage p data) s = .next t ∧
            FrameSent WireOp.writeEnable [] [] s m ∧ FrameSent s.cfg.opWrite (wireAddr a ++ data) [0] m t ∧
            t.we = false)) ∧
    (canOpen s.pstate = false →
      exec (.erasesaveblock p) s = .next { s with fault := some (.protocolMisuse (.command 0x24) s.pstate) } ∧
      exec (.writesavepage p data) s = .next { s with fault := some (.protocolMisuse (.command 0x25) s.pstate) }) ∧
    (canOpen s.pstate = true → s.inited = false →
      exec (.erasesaveblock p) s = .next { s with fault := some (.uninitialisedPage .save) } ∧
      exec (.writesavepage p data) s = .next { s with fault := some (.uninitialisedPage .save) })

/-- Every command that translates an address before INIT records UninitialisedPage of its region before any bus or framebuffer
activity, after the phase check (`60_exceptions.md` R224, R228). -/
def Obligations.UninitialisedPageFaults : Prop :=
  ∀ (i : Instr) (region : Region) (s : State),
    translates i = some region → s.inited = false → canOpen s.pstate = true →
      exec i s = .next { s with fault := some (.uninitialisedPage region) }

/-- The translation functions in numbers (`20_memory.md` R61, R62, R63). -/
def Obligations.TranslationArithmetic : Prop :=
  (∀ (page : Page) (offset : Addr), (Machine.translate page offset).toNat = (page.toNat * 256 + offset.toNat) % 2 ^ 24) ∧
  (∀ page logical : Page, (savePageAddr page logical).toNat = (page.toNat + logical.toNat) * 256 % 2 ^ 24) ∧
  (∀ (index elementSize : Byte) (extra : Addr),
    (arrayOffset index elementSize extra).toNat =
      (index.toNat * (if elementSize = 0 then 256 else elementSize.toNat) + extra.toNat) % 2 ^ 24) ∧
  (∀ (offset : Addr) (s : State), s.inited = true →
    toDataAddress offset s = .ok (Machine.translate s.dataPage offset) s ∧
    toSaveAddress offset s = .ok (Machine.translate s.savePage offset) s) ∧
  (∀ (logical : Page) (s : State), s.inited = true →
    toSavePage logical s = .ok (savePageAddr s.savePage logical) s) ∧
  (∀ (offset : Addr) (logical : Page) (s : State), s.inited = false →
    toDataAddress offset s = .halt (.uninit .data) s ∧ toSaveAddress offset s = .halt (.uninit .save) s ∧
    toSavePage logical s = .halt (.uninit .save) s)

/-- Translation commutes with offset addition, is a bijection of the 24-bit space for a fixed page, and a save page's address
is the translation of the page number shifted left by 8 (`42_address_dispatch.md` R166, items 3 and 4; `20_memory.md` R62). -/
def Obligations.TranslationLaws : Prop :=
  (∀ (page : Page) (o1 o2 : Addr), Machine.translate page (o1 + o2) = Machine.translate page o1 + o2) ∧
  (∀ page : Page, Function.Bijective (Machine.translate page)) ∧
  (∀ page logical : Page, savePageAddr page logical = Machine.translate page (logical.setWidth 24 <<< 8))

/-! ## Phases and hangs -/

/-- The table of the phases (`41_protocol_engine.md` R147): where its entry is `fault` the command records ProtocolMisuse with
its OP and the phase, before any other change; where it is a phase, a command that ends without a verdict ends in it. The entry
of SLEEP in SELECTED is R147's; that it is followed against the last sentence of `60_exceptions.md` R235 is the model's choice:
log 34. -/
def Obligations.PhaseTable : Prop :=
  ∀ (i : Instr) (op : Byte) (s : State), commandOp i = some op →
    (phaseAfter i s.pstate = none →
      exec i s = .next { s with fault := some (.protocolMisuse (.command op) s.pstate) }) ∧
    (∀ (p : PState) (t : State), s.inv = true → s.clear = true → phaseAfter i s.pstate = some p →
      exec i s = .next t → t.clear = true → t.pstate = p)

/-- BusHang (`60_exceptions.md` R226): on a bus whose transfers never complete, an instruction that opens a frame and TRANSFER
(`40_bus_primitive.md` R122) send their first byte and never end: INFLIGHT stays 1, no response comes, the framebuffer is
untouched; a command that harvests with a transfer in flight never ends in the state in which it was given. No further move but
a reset is made. How the hang shows is the model's choice: log 20; that SLEEP opens its frame in SELECTED, log 34. An opcode
that breaks contract 3 stops before the wait. -/
def Obligations.BrokenBusHangsCommand : Prop :=
  ∀ s : State, s.cfg.busOk = false → (∀ rest : List HostMove, s.host ≠ .reset :: rest) →
    (∀ (i : Instr) (op : Byte), firstOpcode s.cfg i = some op → s.inflight = false → canOpen s.pstate = true →
      s.cs = (s.pstate == .selected) → s.flash.n = 0 →
      (s.cfg.strict = false ∨ s.flash.pd = false ∨ s.flash.bad = true ∨ hasAddress s.cfg op = false) →
      (translates i = none ∨ s.inited = true) →
        ∃ t : State, exec i s = .next t ∧ t.stuck = true ∧ t.inflight = true ∧ t.responses = s.responses ∧
          (∀ a : Nat, Mem.read .fb t.fb a = Mem.read .fb s.fb a) ∧
          t.wire = s.wire ++ s.opening ++ [.xfer op 0 true] ∧
          step t = .fault .busHang) ∧
    (∀ b : Byte, s.inflight = false → s.pstate ≠ .reading →
      (s.cfg.strict = false ∨ s.flash.pd = false ∨ s.flash.bad = true ∨ s.cs = false ∨ 1 ≤ s.flash.n ∨
        hasAddress s.cfg b = false) →
        ∃ t : State, exec (.transfer b) s = .next t ∧ t.stuck = true ∧ t.inflight = true ∧ t.responses = s.responses ∧
          t.cs = s.cs ∧ t.pstate = (if s.pstate = .selected then .cmdOpen else s.pstate) ∧ t.sdr = s.sdr ∧
          (∀ a : Nat, Mem.read .fb t.fb a = Mem.read .fb s.fb a) ∧
          t.wire = s.wire ++ (if s.cs then s.flash.talk s.cfg [b] else [.xfer b 0 true]) ∧
          step t = .fault .busHang) ∧
    (∀ i : Instr, harvests i = true → s.pstate = .reading → s.inflight = true →
      exec i s = .next { s with stuck := true } ∧ step { s with stuck := true } = .fault .busHang)

/-! ## Wire frames (`30_encoding.md` R91 to R93, R101) -/

/-- Each wire opcode, given as a whole frame, is sent as `S`, the opcode, its further bytes, `D`, with no response; in CMD_OPEN
and READING it is a misuse. That a wire opcode can be given as a whole frame is the model's choice: log 3. A part that enforces
its contracts takes every frame that is no access also asleep, and an OP_WRITE frame that breaks no contract. -/
def Obligations.WireFramesSent : Prop :=
  ∀ (addr : Addr) (bytes : List Byte) (s : State),
    (s.cfg.wf = true →
      (s.canBeginFrame 0xAB = true → ∃ t : State, exec .opReleasePd s = .next t ∧ FrameSent 0xAB [] [] s t) ∧
      (s.canBeginFrame 0xB9 = true → ∃ t : State, exec .opPowerDown s = .next t ∧ FrameSent 0xB9 [] [] s t) ∧
      (s.canBeginFrame 0x06 = true → ∃ t : State, exec .opWriteEnable s = .next t ∧ FrameSent 0x06 [] [] s t) ∧
      (s.canBeginFrame 0x20 = true →
        ∃ t : State, exec (.opErase addr) s = .next t ∧ FrameSent 0x20 (wireAddr addr) [] s t) ∧
      (s.canBeginFrame 0x03 = true →
        ∃ t : State, exec (.opRead addr bytes) s = .next t ∧ FrameSent 0x03 (wireAddr addr ++ bytes) [] s t) ∧
      (s.canBeginFrame 0x9F = true → ∃ t : State, exec (.opJedecId bytes) s = .next t ∧ FrameSent 0x9F bytes [] s t) ∧
      (s.canBeginFrame 0x05 = true → ∃ t : State, exec (.opReadStatus1 bytes) s = .next t ∧ FrameSent 0x05 bytes [] s t) ∧
      (s.canBeginFrame 0x35 = true → ∃ t : State, exec (.opReadStatus2 bytes) s = .next t ∧ FrameSent 0x35 bytes [] s t) ∧
      (s.canBeginFrame s.cfg.opWrite = true →
        (s.cfg.strict = false ∨ s.flash.bad = true ∨ s.flash.wel = false ∨
          ¬ meetsUnerased s.cfg s.flash.mem addr.toNat bytes) →
        ∃ t : State, exec (.opWrite addr bytes) s = .next t ∧
          FrameSent s.cfg.opWrite (wireAddr addr ++ bytes) [] s t)) ∧
    (∀ (i : Instr) (op : Byte), canOpen s.pstate = false → commandOp i = none → firstOpcode s.cfg i = some op →
      exec i s = .next { s with fault := some (.protocolMisuse (.frame op) s.pstate) })

/-- A command equals its expansion of R106, and a wire frame its sequence of bus primitives: where the sequence completes, the
instruction reaches the same state, the history of responses apart. The phase is not CMD_OPEN, where the commands are misuses
and the primitives are not; the bus invariants (`10_state.md` R36) hold, as `StepKeepsInvariant` says of every run. That a wire
frame is one instruction (log 3) and that SLEEP runs in SELECTED (log 34) is the model's choice. -/
def Obligations.CommandsEqualTheirExpansions : Prop :=
  ∀ (i : Instr) (is : List Instr) (s u : State),
    expansion s i = some is → s.busInv = true → s.pstate ≠ .cmdOpen → runList is s = some u →
      ∃ t : State, exec i s = .next t ∧ { t with responses := u.responses } = u

/-- OP_READ as a frame, with the part awake: every answer after the address is the byte at the cursor, which advances by one
and wraps at the top of the part (`20_memory.md` R71), and the array is as before. That the frame is one instruction is the
model's choice (log 3), the wrap is R71 as the model adopts it (log 15). -/
def Obligations.WireReadAnswersArray : Prop :=
  ∀ (addr : Addr) (dummies : List Byte) (s : State),
    s.cfg.wf = true → s.canBegin = true → s.flash.bad = false → s.flash.pd = false →
      ∃ t : State, exec (.opRead addr dummies) s = .next t ∧
        t.wire = s.wire ++ s.opening ++ (WireOp.read :: wireAddr addr).map (fun b => Event.xfer b 0 true) ++
          (List.range dummies.length).map (fun k =>
            Event.xfer (dummies.getD k 0) (Mem.read .flash s.flash.mem ((addr.toNat + k) % s.cfg.flashBytes)) false) ++
          [.desel] ∧
        t.flash.cur.toNat = (addr.toNat + dummies.length) % s.cfg.flashBytes ∧
        (∀ a : Nat, Mem.read .flash t.flash.mem a = Mem.read .flash s.flash.mem a)

/-- OP_ERASE and OP_WRITE as frames, on an awake part: with the write-enable latch set the block is erased, the bytes of the
page are programmed, and the latch is cleared; with the latch clear nothing happens to the array (`20_memory.md` R72, R73, R74).
A part that enforces its contracts programs where the latch is clear or every target byte is erased. That the frame is one
instruction is the model's choice: log 3. -/
def Obligations.WireEraseAndWriteNeedLatch : Prop :=
  ∀ (addr : Addr) (data : List Byte) (s : State),
    s.cfg.wf = true → 256 ≤ s.cfg.flashBytes → s.canBegin = true → s.flash.bad = false → s.flash.pd = false →
    1 ≤ data.length → data.length ≤ 256 →
      (∃ t : State, exec (.opErase addr) s = .next t ∧ t.fault = s.fault ∧ t.flash.wel = false ∧
        ∀ a : Nat, Mem.read .flash t.flash.mem a =
          if s.flash.wel = true ∧ blockBase s.cfg addr.toNat ≤ a ∧
              a < blockBase s.cfg addr.toNat + s.cfg.eraseBlockBytes then 0xFF
          else Mem.read .flash s.flash.mem a) ∧
      ((s.cfg.strict = false ∨ s.flash.wel = false ∨
        ∀ k : Nat, k < data.length → Mem.read .flash s.flash.mem (programAddr s.cfg.flashBytes addr.toNat k) = 0xFF) →
        ∃ t : State, exec (.opWrite addr data) s = .next t ∧ t.fault = s.fault ∧ t.flash.wel = false ∧
          (∀ k : Nat, k < data.length →
            Mem.read .flash t.flash.mem (programAddr s.cfg.flashBytes addr.toNat k) =
              Mem.read .flash s.flash.mem (programAddr s.cfg.flashBytes addr.toNat k) &&&
                (if s.flash.wel = true then data.getD k 0 else 0xFF)) ∧
          (∀ a : Nat, (∀ k : Nat, k < data.length → a ≠ programAddr s.cfg.flashBytes addr.toNat k) →
            Mem.read .flash t.flash.mem a = Mem.read .flash s.flash.mem a))

/-- A part that sleeps ignores a frame of any opcode but OP_RELEASE_PD: it answers draws only, and its array, cursor, latch and
power state are as before (`20_memory.md` R75). A part that enforces its contracts is excepted where they are broken (R78). -/
def Obligations.SleepingPartIgnoresFrames : Prop :=
  ∀ (cfg : Config) (f : FlashPart) (op : Byte) (rest : List Byte),
    f.pd = true → f.bad = false → f.n = 0 → op ≠ WireOp.releasePd →
    (cfg.strict = false ∨ hasAddress cfg op = false) →
      let g := (f.feed cfg (op :: rest)).deselect cfg
      f.talk cfg (op :: rest) = (op :: rest).map (fun b => Event.xfer b 0 true) ∧
      g.mem = f.mem ∧ g.cur = f.cur ∧ g.wel = f.wel ∧ g.pd = true ∧ g.bad = false

/-- Identification, status and unknown opcodes: the part answers draws only, and its array, cursor, latch and power state are
as before (`20_memory.md` R76, R77). -/
def Obligations.OtherOpcodesHaveNoEffect : Prop :=
  ∀ (cfg : Config) (f : FlashPart) (op : Byte) (rest : List Byte),
    f.n = 0 → f.bad = false → hasAddress cfg op = false →
    op ≠ WireOp.releasePd → op ≠ WireOp.powerDown → op ≠ WireOp.writeEnable →
      let g := (f.feed cfg (op :: rest)).deselect cfg
      f.talk cfg (op :: rest) = (op :: rest).map (fun b => Event.xfer b 0 true) ∧
      g.mem = f.mem ∧ g.cur = f.cur ∧ g.wel = f.wel ∧ g.pd = f.pd ∧ g.bad = false

/-! ## The bitmap blitter (`43_blitter.md`) -/

/-- The truth table of `Compose` (R195): a bit the mask does not select keeps its value; a selected one takes the bitmap's bit,
or under invert the exclusive or of both. -/
def Obligations.ComposeTruthTable : Prop :=
  ∀ (mode b m e : Byte) (k : Nat), k < 8 →
    (compose mode b m e).getLsbD k =
      if m.getLsbD k then (if mode.getLsbD 1 then b.getLsbD k ^^ e.getLsbD k else b.getLsbD k) else e.getLsbD k

/-- The shift (R194): bit `k` of a byte lands `SHIFT` places further down, in the low byte or, past its end, in the high byte;
every other bit of the two bytes is 0. -/
def Obligations.ShiftSpansTwoRows : Prop :=
  ∀ (v : Byte) (shift j : Nat), shift ≤ 7 → j < 16 →
    (if j < 8 then (shiftLo v shift).getLsbD j else (shiftHi v shift).getLsbD (j - 8)) =
      (decide (shift ≤ j) && v.getLsbD (j - shift))

/-- The bottom-row mask in both variants, that DRAWBITMAP computes it from the header's height, and the one source row that
uses it (R189). -/
def Obligations.BottomRowMask : Prop :=
  (∀ (bh : Int) (k : Nat), k < 8 →
    (bottomMask .validRows bh).getLsbD k = decide (bh % 8 = 0 ∨ (k : Int) < bh % 8) ∧
    (bottomMask .asWritten bh).getLsbD k = decide ((k : Int) < 8 - bh % 8)) ∧
  (∀ (cfg : Config) (x y bw bh : Int) (addr : Addr) (frame : Byte) (masked : Bool),
    (geometry cfg x y bw bh addr frame masked).bottom = bottomMask cfg.bottomMask bh) ∧
  (∀ (b : Blit) (srcRow : Int),
    rowMask b srcRow = if srcRow = b.rpf - 1 ∧ b.bh % 8 ≠ 0 then b.bottom else 0xFF)

/-- DRAWBITMAP runs to its end, with the bus closed and the flash array as it was, and responds 0, whatever the header says
(R180, R199 items 5 and 6); in CMD_OPEN and READING it is a misuse, before INIT it records UninitialisedPage. -/
def Obligations.DrawbitmapCompletes : Prop :=
  ∀ (x y : Half) (addr : Addr) (frame mode : Byte) (s : State),
    (s.cfg.wf = true → s.canBegin = true → s.inited = true →
      ∃ t : State, exec (.drawbitmap x y addr frame mode) s = .next t ∧ BitmapDrawn s t) ∧
    (canOpen s.pstate = false →
      exec (.drawbitmap x y addr frame mode) s =
        .next { s with fault := some (.protocolMisuse (.command 0x30) s.pstate) }) ∧
    (canOpen s.pstate = true → s.inited = false →
      exec (.drawbitmap x y addr frame mode) s = .next { s with fault := some (.uninitialisedPage .data) })

/-- What DRAWBITMAP puts on the wire, with the part awake: the header frame of four bytes, and then, unless the bounding box
misses the viewport, one frame per source row drawn, with one byte more than the row draws; when the exit is taken, how many
rows and columns are drawn and where a row starts are written out in `State.drawEvents` (R182 to R187, R190, R196, R199 items 4
and 5). -/
def Obligations.DrawbitmapWireEvents : Prop :=
  ∀ (x y : Half) (addr : Addr) (frame mode : Byte) (s t : State),
    s.cfg.wf = true → s.canBegin = true → s.inited = true → s.flash.bad = false → s.flash.pd = false →
    exec (.drawbitmap x y addr frame mode) s = .next t →
      t.wire = s.wire ++ s.opening ++ s.drawEvents x y addr frame mode

/-- Every pixel after DRAWBITMAP, with the part awake: the record's pixel under its mask where the bitmap covers it, the old
pixel everywhere else; so the whole clip, shift and row arithmetic draws exactly the bitmap (`20_memory.md` R52, R56;
`43_blitter.md` R184 to R195, R199 items 2 to 4). -/
def Obligations.DrawbitmapPixelLaw : Prop :=
  ∀ (x y : Half) (addr : Addr) (frame mode : Byte) (s t : State),
    s.cfg.wf = true → s.canBegin = true → s.inited = true → s.flash.bad = false → s.flash.pd = false →
    exec (.drawbitmap x y addr frame mode) s = .next t →
      ∀ px py : Nat, px < s.cfg.displayW → py < s.cfg.displayH →
        t.pixel px py = s.pixelAfterDraw x y addr frame mode px py

/-- With the invert flag, drawing the same bitmap twice restores every byte of the framebuffer (R195, R198). -/
def Obligations.InvertTwiceRestores : Prop :=
  ∀ (x y : Half) (addr : Addr) (frame mode : Byte) (s t : State),
    s.cfg.wf = true → s.canBegin = true → s.inited = true → s.flash.bad = false → s.flash.pd = false →
    mode.getLsbD 1 = true →
    runList [.drawbitmap x y addr frame mode, .drawbitmap x y addr frame mode] s = some t →
      ∀ a : Nat, Mem.read .fb t.fb a = Mem.read .fb s.fb a

end
end

