-- ==== Sys2Proof/Laws/Memory.lean ====
section
/-! SUPPORT. The laws of a memory: read after write, read after blanking, and that every operation keeps the canonical form
and the bound on addresses. The reading laws hold of every list, canonical or not. -/

namespace Sys2Proof.Machine

/-! ## Reading -/

@[simp] theorem Mem.read_nil (sp : Space) (a : Nat) : Mem.read sp [] a = blankByte sp := rfl

theorem Mem.read_cons (sp : Space) (k : Nat) (v : Byte) (m : Mem) (a : Nat) :
    Mem.read sp ((k, v) :: m) a = if k = a then v else Mem.read sp m a := rfl

theorem Mem.read_filter (sp : Space) (m : Mem) (p : Host.Cell → Bool) (a : Nat)
    (keep : ∀ c : Host.Cell, c.1 = a → p c = true) : Mem.read sp (m.filter p) a = Mem.read sp m a := by
  induction m with
  | nil => rfl
  | cons c rest ih =>
    obtain ⟨k, v⟩ := c
    by_cases hp : p (k, v) = true
    · rw [List.filter_cons_of_pos hp, Mem.read_cons, Mem.read_cons, ih]
    · have hk : k ≠ a := fun h => hp (keep (k, v) h)
      rw [List.filter_cons_of_neg hp, Mem.read_cons, if_neg hk, ih]

theorem Mem.read_filter_gone (sp : Space) (m : Mem) (p : Host.Cell → Bool) (a : Nat)
    (gone : ∀ c : Host.Cell, c.1 = a → p c = false) : Mem.read sp (m.filter p) a = blankByte sp := by
  induction m with
  | nil => rfl
  | cons c rest ih =>
    obtain ⟨k, v⟩ := c
    by_cases hp : p (k, v) = true
    · have hk : k ≠ a := fun h => by simp [gone (k, v) h] at hp
      rw [List.filter_cons_of_pos hp, Mem.read_cons, if_neg hk, ih]
    · rw [List.filter_cons_of_neg hp, ih]

theorem Mem.read_insert (sp : Space) (m : Mem) (a b : Nat) (v : Byte) :
    Mem.read sp (Mem.insert m a v) b = if b = a then v else Mem.read sp m b := by
  induction m with
  | nil =>
    simp only [Mem.insert, Mem.read_cons, Mem.read_nil, eq_comm (a := a)]
  | cons c rest ih =>
    obtain ⟨k, w⟩ := c
    unfold Mem.insert
    split
    · rename_i hlt
      rw [Mem.read_cons, Mem.read_cons, ih]
      by_cases hb : b = a
      · subst hb; simp [Nat.ne_of_lt hlt]
      · simp [hb]
    · split
      · rename_i hka
        subst hka
        rw [Mem.read_cons, Mem.read_cons]
        by_cases hb : b = k <;> simp [hb, eq_comm]
      · simp only [Mem.read_cons, eq_comm (a := a)]

/-- What a write does to every read. -/
theorem Mem.read_write (sp : Space) (m : Mem) (a b : Nat) (v : Byte) :
    Mem.read sp (Mem.write sp m a v) b = if b = a then v else Mem.read sp m b := by
  unfold Mem.write
  split
  · rename_i hv
    by_cases hb : b = a
    · rw [Mem.read_filter_gone, if_pos hb, hv]
      intro c hc; simp [hc, hb]
    · rw [Mem.read_filter, if_neg hb]
      intro c hc; simp [hc, hb]
  · exact Mem.read_insert sp m a b v

@[simp] theorem Mem.read_write_same (sp : Space) (m : Mem) (a : Nat) (v : Byte) :
    Mem.read sp (Mem.write sp m a v) a = v := by
  simp [Mem.read_write]

theorem Mem.read_write_other (sp : Space) (m : Mem) (a b : Nat) (v : Byte) (h : b ≠ a) :
    Mem.read sp (Mem.write sp m a v) b = Mem.read sp m b := by
  simp [Mem.read_write, h]

/-- What blanking a range does to every read. -/
theorem Mem.read_blank (sp : Space) (m : Mem) (base len a : Nat) :
    Mem.read sp (Mem.blank m base len) a =
      if base ≤ a ∧ a < base + len then blankByte sp else Mem.read sp m a := by
  unfold Mem.blank
  split
  · rename_i h
    apply Mem.read_filter_gone
    intro c hc; simp [hc, h.1, h.2]
  · rename_i h
    apply Mem.read_filter
    intro c hc
    subst hc
    simp only [Bool.not_eq_true', Bool.and_eq_false_iff, decide_eq_false_iff_not]
    omega

/-! ## The canonical form -/

theorem Mem.rising_cons {c : Host.Cell} {m : Mem} (h : Mem.rising (c :: m) = true) :
    Mem.rising m = true ∧ ∀ d ∈ m, c.1 < d.1 := by
  induction m generalizing c with
  | nil => exact ⟨rfl, by simp⟩
  | cons d rest ih =>
    simp only [Mem.rising, Bool.and_eq_true, decide_eq_true_eq] at h
    obtain ⟨hcd, hd⟩ := h
    refine ⟨hd, ?_⟩
    intro e he
    rcases List.mem_cons.mp he with rfl | he
    · exact hcd
    · exact Nat.lt_trans hcd ((ih hd).2 e he)

theorem Mem.rising_of_cons {c : Host.Cell} {m : Mem} (hm : Mem.rising m = true)
    (hc : ∀ d ∈ m, c.1 < d.1) : Mem.rising (c :: m) = true := by
  cases m with
  | nil => rfl
  | cons d rest => simp [Mem.rising, hm, hc d (by simp)]

theorem Mem.rising_filter {m : Mem} (p : Host.Cell → Bool) (h : Mem.rising m = true) :
    Mem.rising (m.filter p) = true := by
  induction m with
  | nil => rfl
  | cons c rest ih =>
    obtain ⟨hr, hc⟩ := Mem.rising_cons h
    by_cases hp : p c = true
    · rw [List.filter_cons_of_pos hp]
      exact Mem.rising_of_cons (ih hr) fun d hd => hc d (List.mem_of_mem_filter hd)
    · rw [List.filter_cons_of_neg hp]; exact ih hr

theorem Mem.mem_insert {m : Mem} {a : Nat} {v : Byte} {c : Host.Cell} (h : c ∈ Mem.insert m a v) :
    c = (a, v) ∨ c ∈ m := by
  induction m with
  | nil => exact .inl (by simpa [Mem.insert] using h)
  | cons d rest ih =>
    obtain ⟨k, w⟩ := d
    unfold Mem.insert at h
    split at h
    · rcases List.mem_cons.mp h with rfl | h
      · exact .inr (by simp)
      · exact (ih h).imp id fun h => List.mem_cons_of_mem _ h
    · split at h
      · rcases List.mem_cons.mp h with rfl | h
        · exact .inl rfl
        · exact .inr (List.mem_cons_of_mem _ h)
      · exact (List.mem_cons.mp h).imp id id

theorem Mem.rising_insert {m : Mem} (a : Nat) (v : Byte) (h : Mem.rising m = true) :
    Mem.rising (Mem.insert m a v) = true := by
  induction m with
  | nil => rfl
  | cons c rest ih =>
    obtain ⟨k, w⟩ := c
    obtain ⟨hr, hc⟩ := Mem.rising_cons h
    unfold Mem.insert
    split
    · rename_i hlt
      refine Mem.rising_of_cons (ih hr) fun d hd => ?_
      rcases Mem.mem_insert hd with rfl | hd
      · exact hlt
      · exact hc d hd
    · split
      · rename_i hka
        subst hka
        exact Mem.rising_of_cons hr hc
      · rename_i h1 h2
        have hak : a < k := by omega
        refine Mem.rising_of_cons h fun d hd => ?_
        rcases List.mem_cons.mp hd with rfl | hd
        · exact hak
        · exact Nat.lt_trans hak (hc d hd)

/-- Writing keeps the canonical form. -/
theorem Mem.write_wf {sp : Space} {m : Mem} (a : Nat) (v : Byte) (h : Mem.wf sp m = true) :
    Mem.wf sp (Mem.write sp m a v) = true := by
  simp only [Mem.wf, Bool.and_eq_true, List.all_eq_true] at h ⊢
  obtain ⟨hr, hb⟩ := h
  unfold Mem.write
  split
  · exact ⟨Mem.rising_filter _ hr, fun c hc => hb c (List.mem_of_mem_filter hc)⟩
  · rename_i hv
    refine ⟨Mem.rising_insert a v hr, fun c hc => ?_⟩
    rcases Mem.mem_insert hc with rfl | hc
    · simpa using hv
    · exact hb c hc

/-- Blanking a range keeps the canonical form. -/
theorem Mem.blank_wf {sp : Space} {m : Mem} (base len : Nat) (h : Mem.wf sp m = true) :
    Mem.wf sp (Mem.blank m base len) = true := by
  simp only [Mem.wf, Bool.and_eq_true, List.all_eq_true] at h ⊢
  exact ⟨Mem.rising_filter _ h.1, fun c hc => h.2 c (List.mem_of_mem_filter hc)⟩

/-- Writing below the bound keeps every entry below it. -/
theorem Mem.write_below {sp : Space} {m : Mem} {size : Nat} (a : Nat) (v : Byte) (ha : a < size)
    (h : Mem.below m size = true) : Mem.below (Mem.write sp m a v) size = true := by
  simp only [Mem.below, List.all_eq_true, decide_eq_true_eq] at h ⊢
  intro c hc
  unfold Mem.write at hc
  split at hc
  · exact h c (List.mem_of_mem_filter hc)
  · rcases Mem.mem_insert hc with rfl | hc
    · exact ha
    · exact h c hc

/-- Blanking keeps every entry below the bound. -/
theorem Mem.blank_below {m : Mem} {size : Nat} (base len : Nat) (h : Mem.below m size = true) :
    Mem.below (Mem.blank m base len) size = true := by
  simp only [Mem.below, List.all_eq_true] at h ⊢
  exact fun c hc => h c (List.mem_of_mem_filter hc)

end Sys2Proof.Machine
end

