-- ==== Sys2Proof/Laws/Flash.lean ====
section
/-! SUPPORT. What the flash part can do: to a byte (`exchange`), to a run of bytes (`feed`, `talk`), and when chip-select is
deasserted (`deselect`). -/

namespace Sys2Proof.Machine

/-! ## One byte -/

@[simp] theorem FlashPart.exchange_mem (cfg : Config) (f : FlashPart) (b : Byte) :
    (f.exchange cfg b).2.mem = f.mem := by
  unfold FlashPart.exchange; repeat' split
  all_goals rfl

@[simp] theorem FlashPart.exchange_wel (cfg : Config) (f : FlashPart) (b : Byte) :
    (f.exchange cfg b).2.wel = f.wel := by
  unfold FlashPart.exchange; repeat' split
  all_goals rfl

@[simp] theorem FlashPart.exchange_pd (cfg : Config) (f : FlashPart) (b : Byte) :
    (f.exchange cfg b).2.pd = f.pd := by
  unfold FlashPart.exchange; repeat' split
  all_goals rfl

@[simp] theorem FlashPart.exchange_n (cfg : Config) (f : FlashPart) (b : Byte) :
    (f.exchange cfg b).2.n = f.n + 1 := by
  unfold FlashPart.exchange; repeat' split
  all_goals rfl

/-- A byte breaks a contract only as the first of its frame. -/
theorem FlashPart.exchange_bad (cfg : Config) (f : FlashPart) (b : Byte) :
    (f.exchange cfg b).2.bad =
      (f.bad || (decide (f.n = 0) && cfg.strict && f.pd && hasAddress cfg b)) := by
  unfold FlashPart.exchange
  by_cases hb : f.bad = true
  · simp [hb]
  · have hb' : f.bad = false := by simpa using hb
    by_cases hn : f.n = 0
    · simp [hb', hn, FlashPart.takeOpcode]
    · simp only [hb', hn, if_false, decide_false, Bool.false_and, Bool.or_false, Bool.false_eq_true]
      repeat' split
      all_goals first | rfl | exact hb'

/-- This byte cannot break contract 3 (`20_memory.md` R78): no enforcement, a part awake, an opcode that is no access, or no
opcode. -/
def FlashPart.takesSafely (cfg : Config) (f : FlashPart) (b : Byte) : Prop :=
  (!cfg.strict || !f.pd || !hasAddress cfg b) = true ∨ 1 ≤ f.n

/-- A byte that is taken safely breaks no contract. -/
theorem FlashPart.exchange_bad_same (cfg : Config) (f : FlashPart) (b : Byte)
    (h : f.takesSafely cfg b) : (f.exchange cfg b).2.bad = f.bad := by
  rw [FlashPart.exchange_bad]
  rcases h with h | h
  · cases hs : cfg.strict <;> cases hp : f.pd <;> cases ha : hasAddress cfg b <;> simp_all
  · simp [show ¬ f.n = 0 by omega]

/-- The opcode of a frame is its first byte (`20_memory.md` R69). -/
theorem FlashPart.exchange_op (cfg : Config) (f : FlashPart) (b : Byte) :
    (f.exchange cfg b).2.op = if f.bad = false ∧ f.n = 0 then b else f.op := by
  unfold FlashPart.exchange
  by_cases hb : f.bad = true
  · simp [hb]
  · have hb' : f.bad = false := by simpa using hb
    by_cases hn : f.n = 0
    · simp [hb', hn, FlashPart.takeOpcode]
    · simp only [hb', hn, if_false, and_false, Bool.false_eq_true]
      repeat' split
      all_goals rfl

/-- The cursor stays below FLASH_BYTES. -/
theorem cursorAt_lt (cfg : Config) (a : Nat) (h : 0 < cfg.flashBytes) :
    (cursorAt cfg a).toNat < cfg.flashBytes := by
  unfold cursorAt
  rw [BitVec.toNat_ofNat]
  exact Nat.lt_of_le_of_lt (Nat.mod_le _ _) (Nat.mod_lt _ h)

theorem FlashPart.exchange_cur_lt (cfg : Config) (f : FlashPart) (b : Byte) (h : 0 < cfg.flashBytes)
    (hc : f.cur.toNat < cfg.flashBytes) : (f.exchange cfg b).2.cur.toNat < cfg.flashBytes := by
  unfold FlashPart.exchange
  repeat' split
  all_goals first
    | exact hc
    | exact cursorAt_lt cfg _ h
    | (simp only [FlashPart.takeAddress]; split <;> first | exact hc | exact cursorAt_lt cfg _ h)

/-- In the data phase of a read the part answers the byte at its cursor and advances it (`20_memory.md` R71). -/
theorem FlashPart.exchange_data (cfg : Config) (f : FlashPart) (b : Byte) (hbad : f.bad = false)
    (hign : f.ign = false) (hop : f.op = WireOp.read) (hn : 4 ≤ f.n) :
    f.exchange cfg b =
      (some (Mem.read .flash f.mem f.cur.toNat),
       { f with n := f.n + 1, cur := cursorAt cfg (f.cur.toNat + 1) }) := by
  unfold FlashPart.exchange
  simp [hbad, hign, hop, show ¬ f.n = 0 by omega, show ¬ f.n ≤ 3 by omega]

/-! ## A run of bytes -/

@[simp] theorem FlashPart.feed_nil (cfg : Config) (f : FlashPart) : f.feed cfg [] = f := rfl
@[simp] theorem FlashPart.feed_cons (cfg : Config) (f : FlashPart) (b : Byte) (l : List Byte) :
    f.feed cfg (b :: l) = (f.exchange cfg b).2.feed cfg l := rfl
@[simp] theorem FlashPart.talk_nil (cfg : Config) (f : FlashPart) : f.talk cfg [] = [] := rfl
theorem FlashPart.talk_cons (cfg : Config) (f : FlashPart) (b : Byte) (l : List Byte) :
    f.talk cfg (b :: l) =
      (match (f.exchange cfg b).1 with
        | some r => Event.xfer b r false
        | none => Event.xfer b 0 true) :: (f.exchange cfg b).2.talk cfg l := rfl

theorem FlashPart.feed_append (cfg : Config) (f : FlashPart) (l r : List Byte) :
    f.feed cfg (l ++ r) = (f.feed cfg l).feed cfg r := by
  induction l generalizing f with
  | nil => rfl
  | cons b rest ih => simp [ih]

theorem FlashPart.talk_append (cfg : Config) (f : FlashPart) (l r : List Byte) :
    f.talk cfg (l ++ r) = f.talk cfg l ++ (f.feed cfg l).talk cfg r := by
  induction l generalizing f with
  | nil => rfl
  | cons b rest ih => simp [FlashPart.talk_cons, ih]

@[simp] theorem FlashPart.feed_mem (cfg : Config) (f : FlashPart) (l : List Byte) :
    (f.feed cfg l).mem = f.mem := by
  induction l generalizing f with
  | nil => rfl
  | cons b rest ih => simp [ih]

@[simp] theorem FlashPart.feed_wel (cfg : Config) (f : FlashPart) (l : List Byte) :
    (f.feed cfg l).wel = f.wel := by
  induction l generalizing f with
  | nil => rfl
  | cons b rest ih => simp [ih]

@[simp] theorem FlashPart.feed_pd (cfg : Config) (f : FlashPart) (l : List Byte) :
    (f.feed cfg l).pd = f.pd := by
  induction l generalizing f with
  | nil => rfl
  | cons b rest ih => simp [ih]

@[simp] theorem FlashPart.feed_n (cfg : Config) (f : FlashPart) (l : List Byte) :
    (f.feed cfg l).n = f.n + l.length := by
  induction l generalizing f with
  | nil => rfl
  | cons b rest ih => simp [ih]; omega

theorem FlashPart.feed_bad_same (cfg : Config) (f : FlashPart) (l : List Byte)
    (h : ∀ b ∈ l.head?, f.takesSafely cfg b) : (f.feed cfg l).bad = f.bad := by
  induction l generalizing f with
  | nil => rfl
  | cons b rest ih =>
    rw [FlashPart.feed_cons, ih _ (fun _ _ => .inr (by simp)), FlashPart.exchange_bad_same _ _ _ (h b rfl)]

/-- A part with a broken contract keeps the mark. -/
theorem FlashPart.feed_bad_stays (cfg : Config) (f : FlashPart) (l : List Byte) (h : f.bad = true) :
    (f.feed cfg l).bad = true := by
  induction l generalizing f with
  | nil => exact h
  | cons b rest ih => rw [FlashPart.feed_cons]; exact ih _ (by simp [FlashPart.exchange_bad, h])

theorem FlashPart.feed_op (cfg : Config) (f : FlashPart) (l : List Byte) (h : 1 ≤ f.n) :
    (f.feed cfg l).op = f.op := by
  induction l generalizing f with
  | nil => rfl
  | cons b rest ih =>
    rw [FlashPart.feed_cons, ih _ (by simp), FlashPart.exchange_op, if_neg (by omega)]

theorem FlashPart.feed_cur_lt (cfg : Config) (f : FlashPart) (l : List Byte) (h : 0 < cfg.flashBytes)
    (hc : f.cur.toNat < cfg.flashBytes) : (f.feed cfg l).cur.toNat < cfg.flashBytes := by
  induction l generalizing f with
  | nil => exact hc
  | cons b rest ih => exact ih _ (FlashPart.exchange_cur_lt cfg f b h hc)

/-- The bytes after the address of a write frame are its payload (`20_memory.md` R69). -/
theorem FlashPart.feed_payload (cfg : Config) (f : FlashPart) (data : List Byte) (hbad : f.bad = false)
    (hign : f.ign = false) (hop : f.op = cfg.opWrite) (hr : cfg.opWrite ≠ WireOp.read) (hn : 4 ≤ f.n) :
    f.feed cfg data = { f with n := f.n + data.length, buf := f.buf ++ data } := by
  induction data generalizing f with
  | nil => simp
  | cons b rest ih =>
    have hx : (f.exchange cfg b).2 = { f with n := f.n + 1, buf := f.buf ++ [b] } := by
      unfold FlashPart.exchange
      simp [hbad, hign, hop, hr, show ¬ f.n = 0 by omega, show ¬ f.n ≤ 3 by omega]
    rw [FlashPart.feed_cons, hx, ih { f with n := f.n + 1, buf := f.buf ++ [b] } hbad hign hop
      (show 4 ≤ f.n + 1 by omega)]
    simp; omega

/-- Three bytes of 8 bits put together again give the address (`30_encoding.md` R98; `20_memory.md` R69). -/
theorem addr_assembled (a : Addr) :
    (((((0 : Addr) <<< 8 ||| (BitVec.extractLsb' 16 8 a).setWidth 24) <<< 8
      ||| (BitVec.extractLsb' 8 8 a).setWidth 24) <<< 8)
      ||| (BitVec.extractLsb' 0 8 a).setWidth 24) = a := by
  ext i hi
  simp only [BitVec.getElem_or, BitVec.getElem_shiftLeft, BitVec.getElem_setWidth, BitVec.getLsbD_extractLsb']
  by_cases h1 : i < 8
  · simp [h1, BitVec.getLsbD_eq_getElem hi]
  · by_cases h2 : i < 16
    · have e : 8 + (i - 8) = i := by omega
      have h3 : i - 8 < 8 := by omega
      simp [h1, h3, e, BitVec.getLsbD_eq_getElem hi]
    · have h3 : ¬ i - 8 < 8 := by omega
      have h4 : i - 8 - 8 < 8 := by omega
      have e : 16 + (i - 8 - 8) = i := by omega
      simp [h1, h3, h4, e, BitVec.getLsbD_eq_getElem hi]

/-- A part that heeds the frame has, after the opcode and the address of a wire command that carries one, the address in
`addr` and in its cursor, and no payload yet (`20_memory.md` R69). -/
theorem FlashPart.feed_addressed (cfg : Config) (f : FlashPart) (op : Byte) (a : Addr) (hn : f.n = 0)
    (hbad : f.bad = false) (hpd : f.pd = false) (hop : hasAddress cfg op = true) :
    f.feed cfg (op :: [BitVec.extractLsb' 16 8 a, BitVec.extractLsb' 8 8 a, BitVec.extractLsb' 0 8 a]) =
      { f with n := 4, op := op, addr := a, buf := [], ign := false, bad := false,
               cur := cursorAt cfg a.toNat } := by
  have h1 : (f.exchange cfg op).2 = f.takeOpcode cfg op := by
    unfold FlashPart.exchange; simp [hn, hbad]
  rw [FlashPart.feed_cons, h1]
  simp only [FlashPart.feed_cons, FlashPart.feed_nil]
  have hx : ∀ (g : FlashPart) (b : Byte), g.bad = false → g.ign = false → g.op = op → g.n ≠ 0 → g.n ≤ 3 →
      (g.exchange cfg b).2 = g.takeAddress cfg b := by
    intro g b hb hi ho h0 h3
    unfold FlashPart.exchange
    simp [hb, hi, ho, h0, h3, hop]
  rw [hx (f.takeOpcode cfg op) _ (by simp [FlashPart.takeOpcode, hpd])
    (by simp [FlashPart.takeOpcode, hpd]) (by simp [FlashPart.takeOpcode])
    (by simp [FlashPart.takeOpcode, hn]) (by simp [FlashPart.takeOpcode, hn])]
  rw [hx ((f.takeOpcode cfg op).takeAddress cfg _) _ (by simp [FlashPart.takeOpcode, FlashPart.takeAddress, hpd])
    (by simp [FlashPart.takeOpcode, FlashPart.takeAddress, hpd]) (by simp [FlashPart.takeOpcode, FlashPart.takeAddress])
    (by simp [FlashPart.takeOpcode, FlashPart.takeAddress, hn]) (by simp [FlashPart.takeOpcode, FlashPart.takeAddress, hn])]
  rw [hx (((f.takeOpcode cfg op).takeAddress cfg _).takeAddress cfg _) _ (by simp [FlashPart.takeOpcode, FlashPart.takeAddress, hpd])
    (by simp [FlashPart.takeOpcode, FlashPart.takeAddress, hpd]) (by simp [FlashPart.takeOpcode, FlashPart.takeAddress])
    (by simp [FlashPart.takeOpcode, FlashPart.takeAddress, hn]) (by simp [FlashPart.takeOpcode, FlashPart.takeAddress, hn])]
  simp only [FlashPart.takeOpcode, FlashPart.takeAddress, hn, hpd]
  simp only [addr_assembled]
  simp

/-! ## Deselect -/

@[simp] theorem FlashPart.select_mem (f : FlashPart) : f.select.mem = f.mem := rfl
@[simp] theorem FlashPart.select_n (f : FlashPart) : f.select.n = 0 := rfl
@[simp] theorem FlashPart.select_pd (f : FlashPart) : f.select.pd = f.pd := rfl
@[simp] theorem FlashPart.select_bad (f : FlashPart) : f.select.bad = f.bad := rfl
@[simp] theorem FlashPart.select_wel (f : FlashPart) : f.select.wel = f.wel := rfl
@[simp] theorem FlashPart.select_cur (f : FlashPart) : f.select.cur = f.cur := rfl
/-- Selecting a part that has received no byte changes nothing. -/
theorem FlashPart.select_fresh (f : FlashPart) (h : f.n = 0) : f.select = f := by
  cases f; simp_all [FlashPart.select]

@[simp] theorem FlashPart.deselect_n (cfg : Config) (f : FlashPart) : (f.deselect cfg).n = 0 := rfl

@[simp] theorem FlashPart.release_mem (f : FlashPart) : f.release.mem = f.mem := by
  unfold FlashPart.release; split <;> rfl
@[simp] theorem FlashPart.release_cur (f : FlashPart) : f.release.cur = f.cur := by
  unfold FlashPart.release; split <;> rfl
@[simp] theorem FlashPart.release_bad (f : FlashPart) : f.release.bad = f.bad := by
  unfold FlashPart.release; split <;> rfl
@[simp] theorem FlashPart.release_wel (f : FlashPart) : f.release.wel = f.wel := by
  unfold FlashPart.release; split <;> rfl
@[simp] theorem FlashPart.release_op (f : FlashPart) : f.release.op = f.op := by
  unfold FlashPart.release; split <;> rfl

/-- The part's cursor does not move at a deselect. -/
@[simp] theorem FlashPart.deselect_cur (cfg : Config) (f : FlashPart) : (f.deselect cfg).cur = f.cur := by
  unfold FlashPart.deselect
  simp only [FlashPart.release_cur]
  split
  · unfold FlashPart.commit FlashPart.program FlashPart.eraseBlock
    dsimp only
    repeat' split
    all_goals rfl
  · rfl

/-- A deselect keeps the array unless it closes a write frame with a payload byte or an erase frame, on a part whose
write-enable latch is set. -/
theorem FlashPart.deselect_mem_same (cfg : Config) (f : FlashPart)
    (h : ¬ (f.op = cfg.opWrite ∧ 5 ≤ f.n) ∧ ¬ (f.op = WireOp.erase ∧ f.n = 4)) :
    (f.deselect cfg).mem = f.mem := by
  unfold FlashPart.deselect
  simp only [FlashPart.release_mem]
  split
  · unfold FlashPart.commit
    simp only [if_neg h.1, if_neg h.2]
    repeat' split
    all_goals rfl
  · rfl

/-- A deselect breaks a contract only where a strict part programs. -/
theorem FlashPart.deselect_bad_same (cfg : Config) (f : FlashPart)
    (h : cfg.strict = false ∨ ¬ (f.op = cfg.opWrite ∧ 5 ≤ f.n)) : (f.deselect cfg).bad = f.bad := by
  unfold FlashPart.deselect
  simp only [FlashPart.release_bad]
  split
  · unfold FlashPart.commit FlashPart.program FlashPart.eraseBlock
    rcases h with h | h
    · simp only [h, Bool.false_and, Bool.false_eq_true, if_false]
      repeat' split
      all_goals rfl
    · simp only [if_neg h]
      repeat' split
      all_goals rfl
  · rfl

/-- The loop of `Program()` meets a byte that is not erased exactly where `meetsUnerased` says so, from payload byte `i` on. -/
theorem programFrom_meets (flashBytes addr i : Nat) (data : List Byte) (m : Mem) :
    (programFrom flashBytes addr i data m).2 = true ↔
      ∃ k : Nat, k < data.length ∧
        (Mem.read .flash m (programAddr flashBytes addr (i + k)) ≠ 0xFF ∨
          ∃ j : Nat, j < k ∧ programAddr flashBytes addr (i + j) = programAddr flashBytes addr (i + k) ∧
            data.getD j 0 ≠ 0xFF) := by
  induction data generalizing i m with
  | nil => simp [programFrom]
  | cons b rest ih =>
    by_cases hold : Mem.read .flash m (programAddr flashBytes addr i) = 0xFF
    · simp only [programFrom, hold, bne_self_eq_false, Bool.false_or, ih, Mem.read_write]
      have hb : (0xFF : Byte) &&& b = b := by
        rw [show (0xFF : Byte) = BitVec.allOnes 8 by rfl, BitVec.allOnes_and]
      rw [hb]
      constructor
      · rintro ⟨k, hk, h⟩
        refine ⟨k + 1, by simpa using hk, ?_⟩
        rw [show i + (k + 1) = i + 1 + k by omega]
        rcases h with h | ⟨j, hj, he, hd⟩
        · split at h
          · rename_i he
            exact .inr ⟨0, by omega, he.symm, by simpa using h⟩
          · exact .inl h
        · exact .inr ⟨j + 1, by omega, by rw [show i + (j + 1) = i + 1 + j by omega]; exact he, by simpa using hd⟩
      · rintro ⟨k, hk, h⟩
        cases k with
        | zero =>
          rcases h with h | ⟨j, hj, -⟩
          · exact absurd hold h
          · omega
        | succ k =>
          rw [show i + (k + 1) = i + 1 + k by omega] at h
          refine ⟨k, by simpa using hk, ?_⟩
          by_cases he : programAddr flashBytes addr (i + 1 + k) = programAddr flashBytes addr i
          · rw [if_pos he]
            by_cases hbf : b = 0xFF
            · refine .inr ?_
              rcases h with h | ⟨j, hj, hje, hd⟩
              · exact absurd (he ▸ hold) h
              · cases j with
                | zero => exact absurd hbf hd
                | succ j => exact ⟨j, by omega, by rw [show i + 1 + j = i + (j + 1) by omega]; exact hje, by simpa using hd⟩
            · exact .inl hbf
          · rw [if_neg he]
            rcases h with h | ⟨j, hj, hje, hd⟩
            · exact .inl h
            · cases j with
              | zero => exact absurd hje.symm he
              | succ j =>
                exact .inr ⟨j, by omega, by rw [show i + 1 + j = i + (j + 1) by omega]; exact hje, by simpa using hd⟩
    · have hx : (Mem.read .flash m (programAddr flashBytes addr i) != 0xFF) = true := by simpa using hold
      simp only [programFrom, hx, Bool.true_or, true_iff]
      exact ⟨0, by simp, .inl hold⟩

/-- A deselect breaks a contract exactly where the frame that it closes breaks contract 2. -/
theorem FlashPart.deselect_bad_iff (cfg : Config) (f : FlashPart) :
    (f.deselect cfg).bad = true ↔ f.bad = true ∨ f.breaksErasure cfg := by
  have hmeets := programFrom_meets cfg.flashBytes f.addr.toNat 0 f.buf f.mem
  simp only [Nat.zero_add] at hmeets
  by_cases hp : f.op = cfg.opWrite ∧ 5 ≤ f.n
  · have h1 : ¬ (f.op = WireOp.writeEnable ∧ f.n = 1) := fun h => by omega
    have h4 : ¬ (f.op = WireOp.erase ∧ f.n = 4) := fun h => by omega
    have hd : ¬ (f.op = WireOp.powerDown ∧ f.n = 1) := fun h => by omega
    have hn : 1 ≤ f.n := by omega
    unfold FlashPart.deselect
    simp only [FlashPart.release_bad, FlashPart.commit, if_neg h1, if_pos hp, if_neg h4, if_neg hd, FlashPart.program,
      FlashPart.breaksErasure, meetsUnerased, ← hmeets]
    cases hb : f.bad <;> cases hi : f.ign <;> cases hw : f.wel <;> cases hs : cfg.strict <;>
      cases hm : (programFrom cfg.flashBytes f.addr.toNat 0 f.buf f.mem).2 <;> simp [hb, hn, hp]
  · rw [FlashPart.deselect_bad_same cfg f (.inr hp)]
    exact ⟨.inl, fun h => h.elim id fun hb => absurd ⟨hb.2.2.2.2.1, hb.2.2.2.2.2.1⟩ hp⟩

/-! ## The array after a program or an erase -/

/-- Programming keeps the canonical form and the bound. -/
theorem programFrom_keeps (flashBytes addr i : Nat) (data : List Byte) (m : Mem) (h0 : 0 < flashBytes)
    (hw : Mem.wf .flash m = true) (hb : Mem.below m flashBytes = true) :
    Mem.wf .flash (programFrom flashBytes addr i data m).1 = true ∧
      Mem.below (programFrom flashBytes addr i data m).1 flashBytes = true := by
  induction data generalizing i m with
  | nil => exact ⟨hw, hb⟩
  | cons b rest ih => exact ih (i + 1) _ (Mem.write_wf _ _ hw) (Mem.write_below _ _ (Nat.mod_lt _ h0) hb)

theorem FlashPart.program_keeps (cfg : Config) (f : FlashPart) (h0 : 0 < cfg.flashBytes)
    (hw : Mem.wf .flash f.mem = true) (hb : Mem.below f.mem cfg.flashBytes = true) :
    Mem.wf .flash (f.program cfg).mem = true ∧ Mem.below (f.program cfg).mem cfg.flashBytes = true := by
  unfold FlashPart.program
  dsimp only
  repeat' split
  all_goals first | exact ⟨hw, hb⟩ | exact programFrom_keeps _ _ _ _ _ h0 hw hb

theorem FlashPart.eraseBlock_keeps (cfg : Config) (f : FlashPart)
    (hw : Mem.wf .flash f.mem = true) (hb : Mem.below f.mem cfg.flashBytes = true) :
    Mem.wf .flash (f.eraseBlock cfg).mem = true ∧ Mem.below (f.eraseBlock cfg).mem cfg.flashBytes = true := by
  unfold FlashPart.eraseBlock
  split
  · exact ⟨Mem.blank_wf _ _ hw, Mem.blank_below _ _ hb⟩
  · exact ⟨hw, hb⟩

/-- A deselect keeps the array canonical and bounded. -/
theorem FlashPart.deselect_keeps (cfg : Config) (f : FlashPart) (h0 : 0 < cfg.flashBytes)
    (hw : Mem.wf .flash f.mem = true) (hb : Mem.below f.mem cfg.flashBytes = true) :
    Mem.wf .flash (f.deselect cfg).mem = true ∧ Mem.below (f.deselect cfg).mem cfg.flashBytes = true := by
  unfold FlashPart.deselect
  simp only [FlashPart.release_mem]
  split
  · unfold FlashPart.commit
    dsimp only
    have e : ∀ g : FlashPart, (if f.op = WireOp.powerDown ∧ f.n = 1 then { g with pd := true } else g).mem = g.mem := by
      intro g; split <;> rfl
    rw [e]
    have h1 : (if f.op = WireOp.writeEnable ∧ f.n = 1 then { f with wel := true } else f).mem = f.mem := by
      split <;> rfl
    generalize (if f.op = WireOp.writeEnable ∧ f.n = 1 then { f with wel := true } else f) = f1 at h1
    have h2 : Mem.wf .flash (if f.op = cfg.opWrite ∧ 5 ≤ f.n then f1.program cfg else f1).mem = true ∧
        Mem.below (if f.op = cfg.opWrite ∧ 5 ≤ f.n then f1.program cfg else f1).mem cfg.flashBytes = true := by
      split
      · exact FlashPart.program_keeps cfg f1 h0 (h1 ▸ hw) (h1 ▸ hb)
      · exact ⟨h1 ▸ hw, h1 ▸ hb⟩
    generalize (if f.op = cfg.opWrite ∧ 5 ≤ f.n then f1.program cfg else f1) = f2 at h2
    split
    · exact FlashPart.eraseBlock_keeps cfg f2 h2.1 h2.2
    · exact h2
  · exact ⟨hw, hb⟩

/-! ## The reset event -/

@[simp] theorem FlashPart.restart_wel (cfg : Config) (o : Bool) (f : FlashPart) : (f.restart cfg o).wel = false := rfl
@[simp] theorem FlashPart.restart_cur (cfg : Config) (o : Bool) (f : FlashPart) : (f.restart cfg o).cur = f.cur := by
  cases o <;> simp [FlashPart.restart]
@[simp] theorem FlashPart.restart_n (cfg : Config) (o : Bool) (f : FlashPart) :
    (f.restart cfg o).n = if o then 0 else f.n := by
  cases o <;> rfl

/-- The reset event keeps the canonical form of the array and its bound. -/
theorem FlashPart.restart_keeps (cfg : Config) (o : Bool) (f : FlashPart) (h0 : 0 < cfg.flashBytes)
    (hw : Mem.wf .flash f.mem = true) (hb : Mem.below f.mem cfg.flashBytes = true) :
    Mem.wf .flash (f.restart cfg o).mem = true ∧ Mem.below (f.restart cfg o).mem cfg.flashBytes = true := by
  cases o
  · exact ⟨hw, hb⟩
  · exact FlashPart.deselect_keeps cfg f h0 hw hb

end Sys2Proof.Machine
end

