-- ==== Sys2Proof/Laws/State.lean ====
section
/-! SUPPORT. One lemma per field per named update of State, each true by rfl, so that no proof unfolds an update. -/

namespace Sys2Proof.Machine

/-! ### log -/

@[simp] theorem State.log_cs (s : State) (e : Event) : (s.log e).cs = s.cs := rfl
@[simp] theorem State.log_inflight (s : State) (e : Event) : (s.log e).inflight = s.inflight := rfl
@[simp] theorem State.log_pending (s : State) (e : Event) : (s.log e).pending = s.pending := rfl
@[simp] theorem State.log_sdr (s : State) (e : Event) : (s.log e).sdr = s.sdr := rfl
@[simp] theorem State.log_pstate (s : State) (e : Event) : (s.log e).pstate = s.pstate := rfl
@[simp] theorem State.log_cmdop (s : State) (e : Event) : (s.log e).cmdop = s.cmdop := rfl
@[simp] theorem State.log_we (s : State) (e : Event) : (s.log e).we = s.we := rfl
@[simp] theorem State.log_dataPage (s : State) (e : Event) : (s.log e).dataPage = s.dataPage := rfl
@[simp] theorem State.log_savePage (s : State) (e : Event) : (s.log e).savePage = s.savePage := rfl
@[simp] theorem State.log_inited (s : State) (e : Event) : (s.log e).inited = s.inited := rfl
@[simp] theorem State.log_blit (s : State) (e : Event) : (s.log e).blit = s.blit := rfl
@[simp] theorem State.log_fault (s : State) (e : Event) : (s.log e).fault = s.fault := rfl
@[simp] theorem State.log_refused (s : State) (e : Event) : (s.log e).refused = s.refused := rfl
@[simp] theorem State.log_stuck (s : State) (e : Event) : (s.log e).stuck = s.stuck := rfl
@[simp] theorem State.log_trace (s : State) (e : Event) : (s.log e).trace = s.trace ++ [e] := rfl
@[simp] theorem State.log_responses (s : State) (e : Event) : (s.log e).responses = s.responses := rfl
@[simp] theorem State.log_flash (s : State) (e : Event) : (s.log e).flash = s.flash := rfl
@[simp] theorem State.log_fb (s : State) (e : Event) : (s.log e).fb = s.fb := rfl
@[simp] theorem State.log_pm (s : State) (e : Event) : (s.log e).pm = s.pm := rfl
@[simp] theorem State.log_cfg (s : State) (e : Event) : (s.log e).cfg = s.cfg := rfl
@[simp] theorem State.log_host (s : State) (e : Event) : (s.log e).host = s.host := rfl
@[simp] theorem State.log_draws (s : State) (e : Event) : (s.log e).draws = s.draws := rfl

/-! ### respond -/

@[simp] theorem State.respond_cs (s : State) (v : Resp) : (s.respond v).cs = s.cs := rfl
@[simp] theorem State.respond_inflight (s : State) (v : Resp) : (s.respond v).inflight = s.inflight := rfl
@[simp] theorem State.respond_pending (s : State) (v : Resp) : (s.respond v).pending = s.pending := rfl
@[simp] theorem State.respond_sdr (s : State) (v : Resp) : (s.respond v).sdr = s.sdr := rfl
@[simp] theorem State.respond_pstate (s : State) (v : Resp) : (s.respond v).pstate = s.pstate := rfl
@[simp] theorem State.respond_cmdop (s : State) (v : Resp) : (s.respond v).cmdop = s.cmdop := rfl
@[simp] theorem State.respond_we (s : State) (v : Resp) : (s.respond v).we = s.we := rfl
@[simp] theorem State.respond_dataPage (s : State) (v : Resp) : (s.respond v).dataPage = s.dataPage := rfl
@[simp] theorem State.respond_savePage (s : State) (v : Resp) : (s.respond v).savePage = s.savePage := rfl
@[simp] theorem State.respond_inited (s : State) (v : Resp) : (s.respond v).inited = s.inited := rfl
@[simp] theorem State.respond_blit (s : State) (v : Resp) : (s.respond v).blit = s.blit := rfl
@[simp] theorem State.respond_fault (s : State) (v : Resp) : (s.respond v).fault = s.fault := rfl
@[simp] theorem State.respond_refused (s : State) (v : Resp) : (s.respond v).refused = s.refused := rfl
@[simp] theorem State.respond_stuck (s : State) (v : Resp) : (s.respond v).stuck = s.stuck := rfl
@[simp] theorem State.respond_trace (s : State) (v : Resp) : (s.respond v).trace = s.trace := rfl
@[simp] theorem State.respond_responses (s : State) (v : Resp) : (s.respond v).responses = s.responses ++ [v] := rfl
@[simp] theorem State.respond_flash (s : State) (v : Resp) : (s.respond v).flash = s.flash := rfl
@[simp] theorem State.respond_fb (s : State) (v : Resp) : (s.respond v).fb = s.fb := rfl
@[simp] theorem State.respond_pm (s : State) (v : Resp) : (s.respond v).pm = s.pm := rfl
@[simp] theorem State.respond_cfg (s : State) (v : Resp) : (s.respond v).cfg = s.cfg := rfl
@[simp] theorem State.respond_host (s : State) (v : Resp) : (s.respond v).host = s.host := rfl
@[simp] theorem State.respond_draws (s : State) (v : Resp) : (s.respond v).draws = s.draws := rfl

/-! ### drew -/

@[simp] theorem State.drew_cs (s : State) : (s.drew).cs = s.cs := rfl
@[simp] theorem State.drew_inflight (s : State) : (s.drew).inflight = s.inflight := rfl
@[simp] theorem State.drew_pending (s : State) : (s.drew).pending = s.pending := rfl
@[simp] theorem State.drew_sdr (s : State) : (s.drew).sdr = s.sdr := rfl
@[simp] theorem State.drew_pstate (s : State) : (s.drew).pstate = s.pstate := rfl
@[simp] theorem State.drew_cmdop (s : State) : (s.drew).cmdop = s.cmdop := rfl
@[simp] theorem State.drew_we (s : State) : (s.drew).we = s.we := rfl
@[simp] theorem State.drew_dataPage (s : State) : (s.drew).dataPage = s.dataPage := rfl
@[simp] theorem State.drew_savePage (s : State) : (s.drew).savePage = s.savePage := rfl
@[simp] theorem State.drew_inited (s : State) : (s.drew).inited = s.inited := rfl
@[simp] theorem State.drew_blit (s : State) : (s.drew).blit = s.blit := rfl
@[simp] theorem State.drew_fault (s : State) : (s.drew).fault = s.fault := rfl
@[simp] theorem State.drew_refused (s : State) : (s.drew).refused = s.refused := rfl
@[simp] theorem State.drew_stuck (s : State) : (s.drew).stuck = s.stuck := rfl
@[simp] theorem State.drew_trace (s : State) : (s.drew).trace = s.trace := rfl
@[simp] theorem State.drew_responses (s : State) : (s.drew).responses = s.responses := rfl
@[simp] theorem State.drew_flash (s : State) : (s.drew).flash = s.flash := rfl
@[simp] theorem State.drew_fb (s : State) : (s.drew).fb = s.fb := rfl
@[simp] theorem State.drew_pm (s : State) : (s.drew).pm = s.pm := rfl
@[simp] theorem State.drew_cfg (s : State) : (s.drew).cfg = s.cfg := rfl
@[simp] theorem State.drew_host (s : State) : (s.drew).host = s.host := rfl
@[simp] theorem State.drew_draws (s : State) : (s.drew).draws = s.draws + 1 := rfl

/-! ### withFlash -/

@[simp] theorem State.withFlash_cs (s : State) (f : FlashPart) : (s.withFlash f).cs = s.cs := rfl
@[simp] theorem State.withFlash_inflight (s : State) (f : FlashPart) : (s.withFlash f).inflight = s.inflight := rfl
@[simp] theorem State.withFlash_pending (s : State) (f : FlashPart) : (s.withFlash f).pending = s.pending := rfl
@[simp] theorem State.withFlash_sdr (s : State) (f : FlashPart) : (s.withFlash f).sdr = s.sdr := rfl
@[simp] theorem State.withFlash_pstate (s : State) (f : FlashPart) : (s.withFlash f).pstate = s.pstate := rfl
@[simp] theorem State.withFlash_cmdop (s : State) (f : FlashPart) : (s.withFlash f).cmdop = s.cmdop := rfl
@[simp] theorem State.withFlash_we (s : State) (f : FlashPart) : (s.withFlash f).we = s.we := rfl
@[simp] theorem State.withFlash_dataPage (s : State) (f : FlashPart) : (s.withFlash f).dataPage = s.dataPage := rfl
@[simp] theorem State.withFlash_savePage (s : State) (f : FlashPart) : (s.withFlash f).savePage = s.savePage := rfl
@[simp] theorem State.withFlash_inited (s : State) (f : FlashPart) : (s.withFlash f).inited = s.inited := rfl
@[simp] theorem State.withFlash_blit (s : State) (f : FlashPart) : (s.withFlash f).blit = s.blit := rfl
@[simp] theorem State.withFlash_fault (s : State) (f : FlashPart) : (s.withFlash f).fault = s.fault := rfl
@[simp] theorem State.withFlash_refused (s : State) (f : FlashPart) : (s.withFlash f).refused = s.refused := rfl
@[simp] theorem State.withFlash_stuck (s : State) (f : FlashPart) : (s.withFlash f).stuck = s.stuck := rfl
@[simp] theorem State.withFlash_trace (s : State) (f : FlashPart) : (s.withFlash f).trace = s.trace := rfl
@[simp] theorem State.withFlash_responses (s : State) (f : FlashPart) : (s.withFlash f).responses = s.responses := rfl
@[simp] theorem State.withFlash_flash (s : State) (f : FlashPart) : (s.withFlash f).flash = f := rfl
@[simp] theorem State.withFlash_fb (s : State) (f : FlashPart) : (s.withFlash f).fb = s.fb := rfl
@[simp] theorem State.withFlash_pm (s : State) (f : FlashPart) : (s.withFlash f).pm = s.pm := rfl
@[simp] theorem State.withFlash_cfg (s : State) (f : FlashPart) : (s.withFlash f).cfg = s.cfg := rfl
@[simp] theorem State.withFlash_host (s : State) (f : FlashPart) : (s.withFlash f).host = s.host := rfl
@[simp] theorem State.withFlash_draws (s : State) (f : FlashPart) : (s.withFlash f).draws = s.draws := rfl

/-! ### withFb -/

@[simp] theorem State.withFb_cs (s : State) (m : Mem) : (s.withFb m).cs = s.cs := rfl
@[simp] theorem State.withFb_inflight (s : State) (m : Mem) : (s.withFb m).inflight = s.inflight := rfl
@[simp] theorem State.withFb_pending (s : State) (m : Mem) : (s.withFb m).pending = s.pending := rfl
@[simp] theorem State.withFb_sdr (s : State) (m : Mem) : (s.withFb m).sdr = s.sdr := rfl
@[simp] theorem State.withFb_pstate (s : State) (m : Mem) : (s.withFb m).pstate = s.pstate := rfl
@[simp] theorem State.withFb_cmdop (s : State) (m : Mem) : (s.withFb m).cmdop = s.cmdop := rfl
@[simp] theorem State.withFb_we (s : State) (m : Mem) : (s.withFb m).we = s.we := rfl
@[simp] theorem State.withFb_dataPage (s : State) (m : Mem) : (s.withFb m).dataPage = s.dataPage := rfl
@[simp] theorem State.withFb_savePage (s : State) (m : Mem) : (s.withFb m).savePage = s.savePage := rfl
@[simp] theorem State.withFb_inited (s : State) (m : Mem) : (s.withFb m).inited = s.inited := rfl
@[simp] theorem State.withFb_blit (s : State) (m : Mem) : (s.withFb m).blit = s.blit := rfl
@[simp] theorem State.withFb_fault (s : State) (m : Mem) : (s.withFb m).fault = s.fault := rfl
@[simp] theorem State.withFb_refused (s : State) (m : Mem) : (s.withFb m).refused = s.refused := rfl
@[simp] theorem State.withFb_stuck (s : State) (m : Mem) : (s.withFb m).stuck = s.stuck := rfl
@[simp] theorem State.withFb_trace (s : State) (m : Mem) : (s.withFb m).trace = s.trace := rfl
@[simp] theorem State.withFb_responses (s : State) (m : Mem) : (s.withFb m).responses = s.responses := rfl
@[simp] theorem State.withFb_flash (s : State) (m : Mem) : (s.withFb m).flash = s.flash := rfl
@[simp] theorem State.withFb_fb (s : State) (m : Mem) : (s.withFb m).fb = m := rfl
@[simp] theorem State.withFb_pm (s : State) (m : Mem) : (s.withFb m).pm = s.pm := rfl
@[simp] theorem State.withFb_cfg (s : State) (m : Mem) : (s.withFb m).cfg = s.cfg := rfl
@[simp] theorem State.withFb_host (s : State) (m : Mem) : (s.withFb m).host = s.host := rfl
@[simp] theorem State.withFb_draws (s : State) (m : Mem) : (s.withFb m).draws = s.draws := rfl

/-! ### launch -/

@[simp] theorem State.launch_cs (s : State) (r : Byte) : (s.launch r).cs = s.cs := rfl
@[simp] theorem State.launch_inflight (s : State) (r : Byte) : (s.launch r).inflight = true := rfl
@[simp] theorem State.launch_pending (s : State) (r : Byte) : (s.launch r).pending = r := rfl
@[simp] theorem State.launch_sdr (s : State) (r : Byte) : (s.launch r).sdr = s.sdr := rfl
@[simp] theorem State.launch_pstate (s : State) (r : Byte) : (s.launch r).pstate = s.pstate := rfl
@[simp] theorem State.launch_cmdop (s : State) (r : Byte) : (s.launch r).cmdop = s.cmdop := rfl
@[simp] theorem State.launch_we (s : State) (r : Byte) : (s.launch r).we = s.we := rfl
@[simp] theorem State.launch_dataPage (s : State) (r : Byte) : (s.launch r).dataPage = s.dataPage := rfl
@[simp] theorem State.launch_savePage (s : State) (r : Byte) : (s.launch r).savePage = s.savePage := rfl
@[simp] theorem State.launch_inited (s : State) (r : Byte) : (s.launch r).inited = s.inited := rfl
@[simp] theorem State.launch_blit (s : State) (r : Byte) : (s.launch r).blit = s.blit := rfl
@[simp] theorem State.launch_fault (s : State) (r : Byte) : (s.launch r).fault = s.fault := rfl
@[simp] theorem State.launch_refused (s : State) (r : Byte) : (s.launch r).refused = s.refused := rfl
@[simp] theorem State.launch_stuck (s : State) (r : Byte) : (s.launch r).stuck = s.stuck := rfl
@[simp] theorem State.launch_trace (s : State) (r : Byte) : (s.launch r).trace = s.trace := rfl
@[simp] theorem State.launch_responses (s : State) (r : Byte) : (s.launch r).responses = s.responses := rfl
@[simp] theorem State.launch_flash (s : State) (r : Byte) : (s.launch r).flash = s.flash := rfl
@[simp] theorem State.launch_fb (s : State) (r : Byte) : (s.launch r).fb = s.fb := rfl
@[simp] theorem State.launch_pm (s : State) (r : Byte) : (s.launch r).pm = s.pm := rfl
@[simp] theorem State.launch_cfg (s : State) (r : Byte) : (s.launch r).cfg = s.cfg := rfl
@[simp] theorem State.launch_host (s : State) (r : Byte) : (s.launch r).host = s.host := rfl
@[simp] theorem State.launch_draws (s : State) (r : Byte) : (s.launch r).draws = s.draws := rfl

/-! ### shifted -/

@[simp] theorem State.shifted_cs (s : State) : (s.shifted).cs = s.cs := rfl
@[simp] theorem State.shifted_inflight (s : State) : (s.shifted).inflight = false := rfl
@[simp] theorem State.shifted_pending (s : State) : (s.shifted).pending = s.pending := rfl
@[simp] theorem State.shifted_sdr (s : State) : (s.shifted).sdr = s.pending := rfl
@[simp] theorem State.shifted_pstate (s : State) : (s.shifted).pstate = s.pstate := rfl
@[simp] theorem State.shifted_cmdop (s : State) : (s.shifted).cmdop = s.cmdop := rfl
@[simp] theorem State.shifted_we (s : State) : (s.shifted).we = s.we := rfl
@[simp] theorem State.shifted_dataPage (s : State) : (s.shifted).dataPage = s.dataPage := rfl
@[simp] theorem State.shifted_savePage (s : State) : (s.shifted).savePage = s.savePage := rfl
@[simp] theorem State.shifted_inited (s : State) : (s.shifted).inited = s.inited := rfl
@[simp] theorem State.shifted_blit (s : State) : (s.shifted).blit = s.blit := rfl
@[simp] theorem State.shifted_fault (s : State) : (s.shifted).fault = s.fault := rfl
@[simp] theorem State.shifted_refused (s : State) : (s.shifted).refused = s.refused := rfl
@[simp] theorem State.shifted_stuck (s : State) : (s.shifted).stuck = s.stuck := rfl
@[simp] theorem State.shifted_trace (s : State) : (s.shifted).trace = s.trace := rfl
@[simp] theorem State.shifted_responses (s : State) : (s.shifted).responses = s.responses := rfl
@[simp] theorem State.shifted_flash (s : State) : (s.shifted).flash = s.flash := rfl
@[simp] theorem State.shifted_fb (s : State) : (s.shifted).fb = s.fb := rfl
@[simp] theorem State.shifted_pm (s : State) : (s.shifted).pm = s.pm := rfl
@[simp] theorem State.shifted_cfg (s : State) : (s.shifted).cfg = s.cfg := rfl
@[simp] theorem State.shifted_host (s : State) : (s.shifted).host = s.host := rfl
@[simp] theorem State.shifted_draws (s : State) : (s.shifted).draws = s.draws := rfl

/-! ### openBus -/

@[simp] theorem State.openBus_cs (s : State) : (s.openBus).cs = true := rfl
@[simp] theorem State.openBus_inflight (s : State) : (s.openBus).inflight = s.inflight := rfl
@[simp] theorem State.openBus_pending (s : State) : (s.openBus).pending = s.pending := rfl
@[simp] theorem State.openBus_sdr (s : State) : (s.openBus).sdr = s.sdr := rfl
@[simp] theorem State.openBus_pstate (s : State) : (s.openBus).pstate = .selected := rfl
@[simp] theorem State.openBus_cmdop (s : State) : (s.openBus).cmdop = s.cmdop := rfl
@[simp] theorem State.openBus_we (s : State) : (s.openBus).we = s.we := rfl
@[simp] theorem State.openBus_dataPage (s : State) : (s.openBus).dataPage = s.dataPage := rfl
@[simp] theorem State.openBus_savePage (s : State) : (s.openBus).savePage = s.savePage := rfl
@[simp] theorem State.openBus_inited (s : State) : (s.openBus).inited = s.inited := rfl
@[simp] theorem State.openBus_blit (s : State) : (s.openBus).blit = s.blit := rfl
@[simp] theorem State.openBus_fault (s : State) : (s.openBus).fault = s.fault := rfl
@[simp] theorem State.openBus_refused (s : State) : (s.openBus).refused = s.refused := rfl
@[simp] theorem State.openBus_stuck (s : State) : (s.openBus).stuck = s.stuck := rfl
@[simp] theorem State.openBus_trace (s : State) : (s.openBus).trace = s.trace ++ [.sel] := rfl
@[simp] theorem State.openBus_responses (s : State) : (s.openBus).responses = s.responses := rfl
@[simp] theorem State.openBus_flash (s : State) : (s.openBus).flash = s.flash.select := rfl
@[simp] theorem State.openBus_fb (s : State) : (s.openBus).fb = s.fb := rfl
@[simp] theorem State.openBus_pm (s : State) : (s.openBus).pm = s.pm := rfl
@[simp] theorem State.openBus_cfg (s : State) : (s.openBus).cfg = s.cfg := rfl
@[simp] theorem State.openBus_host (s : State) : (s.openBus).host = s.host := rfl
@[simp] theorem State.openBus_draws (s : State) : (s.openBus).draws = s.draws := rfl

/-! ### openCommand -/

@[simp] theorem State.openCommand_cs (s : State) (b : Byte) : (s.openCommand b).cs = s.cs := rfl
@[simp] theorem State.openCommand_inflight (s : State) (b : Byte) : (s.openCommand b).inflight = s.inflight := rfl
@[simp] theorem State.openCommand_pending (s : State) (b : Byte) : (s.openCommand b).pending = s.pending := rfl
@[simp] theorem State.openCommand_sdr (s : State) (b : Byte) : (s.openCommand b).sdr = s.sdr := rfl
@[simp] theorem State.openCommand_pstate (s : State) (b : Byte) : (s.openCommand b).pstate = .cmdOpen := rfl
@[simp] theorem State.openCommand_cmdop (s : State) (b : Byte) : (s.openCommand b).cmdop = b := rfl
@[simp] theorem State.openCommand_we (s : State) (b : Byte) : (s.openCommand b).we = s.we := rfl
@[simp] theorem State.openCommand_dataPage (s : State) (b : Byte) : (s.openCommand b).dataPage = s.dataPage := rfl
@[simp] theorem State.openCommand_savePage (s : State) (b : Byte) : (s.openCommand b).savePage = s.savePage := rfl
@[simp] theorem State.openCommand_inited (s : State) (b : Byte) : (s.openCommand b).inited = s.inited := rfl
@[simp] theorem State.openCommand_blit (s : State) (b : Byte) : (s.openCommand b).blit = s.blit := rfl
@[simp] theorem State.openCommand_fault (s : State) (b : Byte) : (s.openCommand b).fault = s.fault := rfl
@[simp] theorem State.openCommand_refused (s : State) (b : Byte) : (s.openCommand b).refused = s.refused := rfl
@[simp] theorem State.openCommand_stuck (s : State) (b : Byte) : (s.openCommand b).stuck = s.stuck := rfl
@[simp] theorem State.openCommand_trace (s : State) (b : Byte) : (s.openCommand b).trace = s.trace := rfl
@[simp] theorem State.openCommand_responses (s : State) (b : Byte) : (s.openCommand b).responses = s.responses := rfl
@[simp] theorem State.openCommand_flash (s : State) (b : Byte) : (s.openCommand b).flash = s.flash := rfl
@[simp] theorem State.openCommand_fb (s : State) (b : Byte) : (s.openCommand b).fb = s.fb := rfl
@[simp] theorem State.openCommand_pm (s : State) (b : Byte) : (s.openCommand b).pm = s.pm := rfl
@[simp] theorem State.openCommand_cfg (s : State) (b : Byte) : (s.openCommand b).cfg = s.cfg := rfl
@[simp] theorem State.openCommand_host (s : State) (b : Byte) : (s.openCommand b).host = s.host := rfl
@[simp] theorem State.openCommand_draws (s : State) (b : Byte) : (s.openCommand b).draws = s.draws := rfl

/-! ### dropBus -/

@[simp] theorem State.dropBus_cs (s : State) : (s.dropBus).cs = false := rfl
@[simp] theorem State.dropBus_inflight (s : State) : (s.dropBus).inflight = s.inflight := rfl
@[simp] theorem State.dropBus_pending (s : State) : (s.dropBus).pending = s.pending := rfl
@[simp] theorem State.dropBus_sdr (s : State) : (s.dropBus).sdr = s.sdr := rfl
@[simp] theorem State.dropBus_pstate (s : State) : (s.dropBus).pstate = s.pstate := rfl
@[simp] theorem State.dropBus_cmdop (s : State) : (s.dropBus).cmdop = s.cmdop := rfl
@[simp] theorem State.dropBus_we (s : State) : (s.dropBus).we = s.we := rfl
@[simp] theorem State.dropBus_dataPage (s : State) : (s.dropBus).dataPage = s.dataPage := rfl
@[simp] theorem State.dropBus_savePage (s : State) : (s.dropBus).savePage = s.savePage := rfl
@[simp] theorem State.dropBus_inited (s : State) : (s.dropBus).inited = s.inited := rfl
@[simp] theorem State.dropBus_blit (s : State) : (s.dropBus).blit = s.blit := rfl
@[simp] theorem State.dropBus_fault (s : State) : (s.dropBus).fault = s.fault := rfl
@[simp] theorem State.dropBus_refused (s : State) : (s.dropBus).refused = s.refused := rfl
@[simp] theorem State.dropBus_stuck (s : State) : (s.dropBus).stuck = s.stuck := rfl
@[simp] theorem State.dropBus_trace (s : State) : (s.dropBus).trace = s.trace ++ [.desel] := rfl
@[simp] theorem State.dropBus_responses (s : State) : (s.dropBus).responses = s.responses := rfl
@[simp] theorem State.dropBus_flash (s : State) : (s.dropBus).flash = s.flash.deselect s.cfg := rfl
@[simp] theorem State.dropBus_fb (s : State) : (s.dropBus).fb = s.fb := rfl
@[simp] theorem State.dropBus_pm (s : State) : (s.dropBus).pm = s.pm := rfl
@[simp] theorem State.dropBus_cfg (s : State) : (s.dropBus).cfg = s.cfg := rfl
@[simp] theorem State.dropBus_host (s : State) : (s.dropBus).host = s.host := rfl
@[simp] theorem State.dropBus_draws (s : State) : (s.dropBus).draws = s.draws := rfl

/-! ### closePhase -/

@[simp] theorem State.closePhase_cs (s : State) : (s.closePhase).cs = s.cs := rfl
@[simp] theorem State.closePhase_inflight (s : State) : (s.closePhase).inflight = s.inflight := rfl
@[simp] theorem State.closePhase_pending (s : State) : (s.closePhase).pending = s.pending := rfl
@[simp] theorem State.closePhase_sdr (s : State) : (s.closePhase).sdr = s.sdr := rfl
@[simp] theorem State.closePhase_pstate (s : State) : (s.closePhase).pstate = .idle := rfl
@[simp] theorem State.closePhase_cmdop (s : State) : (s.closePhase).cmdop = s.cmdop := rfl
@[simp] theorem State.closePhase_we (s : State) : (s.closePhase).we = weAfterClose s.cfg.opWrite s.pstate s.cmdop s.we := rfl
@[simp] theorem State.closePhase_dataPage (s : State) : (s.closePhase).dataPage = s.dataPage := rfl
@[simp] theorem State.closePhase_savePage (s : State) : (s.closePhase).savePage = s.savePage := rfl
@[simp] theorem State.closePhase_inited (s : State) : (s.closePhase).inited = s.inited := rfl
@[simp] theorem State.closePhase_blit (s : State) : (s.closePhase).blit = s.blit := rfl
@[simp] theorem State.closePhase_fault (s : State) : (s.closePhase).fault = s.fault := rfl
@[simp] theorem State.closePhase_refused (s : State) : (s.closePhase).refused = s.refused := rfl
@[simp] theorem State.closePhase_stuck (s : State) : (s.closePhase).stuck = s.stuck := rfl
@[simp] theorem State.closePhase_trace (s : State) : (s.closePhase).trace = s.trace := rfl
@[simp] theorem State.closePhase_responses (s : State) : (s.closePhase).responses = s.responses := rfl
@[simp] theorem State.closePhase_flash (s : State) : (s.closePhase).flash = s.flash := rfl
@[simp] theorem State.closePhase_fb (s : State) : (s.closePhase).fb = s.fb := rfl
@[simp] theorem State.closePhase_pm (s : State) : (s.closePhase).pm = s.pm := rfl
@[simp] theorem State.closePhase_cfg (s : State) : (s.closePhase).cfg = s.cfg := rfl
@[simp] theorem State.closePhase_host (s : State) : (s.closePhase).host = s.host := rfl
@[simp] theorem State.closePhase_draws (s : State) : (s.closePhase).draws = s.draws := rfl

/-! ### startReading -/

@[simp] theorem State.startReading_cs (s : State) : (s.startReading).cs = s.cs := rfl
@[simp] theorem State.startReading_inflight (s : State) : (s.startReading).inflight = s.inflight := rfl
@[simp] theorem State.startReading_pending (s : State) : (s.startReading).pending = s.pending := rfl
@[simp] theorem State.startReading_sdr (s : State) : (s.startReading).sdr = s.sdr := rfl
@[simp] theorem State.startReading_pstate (s : State) : (s.startReading).pstate = .reading := rfl
@[simp] theorem State.startReading_cmdop (s : State) : (s.startReading).cmdop = s.cmdop := rfl
@[simp] theorem State.startReading_we (s : State) : (s.startReading).we = s.we := rfl
@[simp] theorem State.startReading_dataPage (s : State) : (s.startReading).dataPage = s.dataPage := rfl
@[simp] theorem State.startReading_savePage (s : State) : (s.startReading).savePage = s.savePage := rfl
@[simp] theorem State.startReading_inited (s : State) : (s.startReading).inited = s.inited := rfl
@[simp] theorem State.startReading_blit (s : State) : (s.startReading).blit = s.blit := rfl
@[simp] theorem State.startReading_fault (s : State) : (s.startReading).fault = s.fault := rfl
@[simp] theorem State.startReading_refused (s : State) : (s.startReading).refused = s.refused := rfl
@[simp] theorem State.startReading_stuck (s : State) : (s.startReading).stuck = s.stuck := rfl
@[simp] theorem State.startReading_trace (s : State) : (s.startReading).trace = s.trace := rfl
@[simp] theorem State.startReading_responses (s : State) : (s.startReading).responses = s.responses := rfl
@[simp] theorem State.startReading_flash (s : State) : (s.startReading).flash = s.flash := rfl
@[simp] theorem State.startReading_fb (s : State) : (s.startReading).fb = s.fb := rfl
@[simp] theorem State.startReading_pm (s : State) : (s.startReading).pm = s.pm := rfl
@[simp] theorem State.startReading_cfg (s : State) : (s.startReading).cfg = s.cfg := rfl
@[simp] theorem State.startReading_host (s : State) : (s.startReading).host = s.host := rfl
@[simp] theorem State.startReading_draws (s : State) : (s.startReading).draws = s.draws := rfl

/-! ### withPages -/

@[simp] theorem State.withPages_cs (s : State) (d p : Page) : (s.withPages d p).cs = s.cs := rfl
@[simp] theorem State.withPages_inflight (s : State) (d p : Page) : (s.withPages d p).inflight = s.inflight := rfl
@[simp] theorem State.withPages_pending (s : State) (d p : Page) : (s.withPages d p).pending = s.pending := rfl
@[simp] theorem State.withPages_sdr (s : State) (d p : Page) : (s.withPages d p).sdr = s.sdr := rfl
@[simp] theorem State.withPages_pstate (s : State) (d p : Page) : (s.withPages d p).pstate = s.pstate := rfl
@[simp] theorem State.withPages_cmdop (s : State) (d p : Page) : (s.withPages d p).cmdop = s.cmdop := rfl
@[simp] theorem State.withPages_we (s : State) (d p : Page) : (s.withPages d p).we = s.we := rfl
@[simp] theorem State.withPages_dataPage (s : State) (d p : Page) : (s.withPages d p).dataPage = d := rfl
@[simp] theorem State.withPages_savePage (s : State) (d p : Page) : (s.withPages d p).savePage = p := rfl
@[simp] theorem State.withPages_inited (s : State) (d p : Page) : (s.withPages d p).inited = true := rfl
@[simp] theorem State.withPages_blit (s : State) (d p : Page) : (s.withPages d p).blit = s.blit := rfl
@[simp] theorem State.withPages_fault (s : State) (d p : Page) : (s.withPages d p).fault = s.fault := rfl
@[simp] theorem State.withPages_refused (s : State) (d p : Page) : (s.withPages d p).refused = s.refused := rfl
@[simp] theorem State.withPages_stuck (s : State) (d p : Page) : (s.withPages d p).stuck = s.stuck := rfl
@[simp] theorem State.withPages_trace (s : State) (d p : Page) : (s.withPages d p).trace = s.trace := rfl
@[simp] theorem State.withPages_responses (s : State) (d p : Page) : (s.withPages d p).responses = s.responses := rfl
@[simp] theorem State.withPages_flash (s : State) (d p : Page) : (s.withPages d p).flash = s.flash := rfl
@[simp] theorem State.withPages_fb (s : State) (d p : Page) : (s.withPages d p).fb = s.fb := rfl
@[simp] theorem State.withPages_pm (s : State) (d p : Page) : (s.withPages d p).pm = s.pm := rfl
@[simp] theorem State.withPages_cfg (s : State) (d p : Page) : (s.withPages d p).cfg = s.cfg := rfl
@[simp] theorem State.withPages_host (s : State) (d p : Page) : (s.withPages d p).host = s.host := rfl
@[simp] theorem State.withPages_draws (s : State) (d p : Page) : (s.withPages d p).draws = s.draws := rfl

/-! ### withBlit -/

@[simp] theorem State.withBlit_cs (s : State) (b : Option Blit) : (s.withBlit b).cs = s.cs := rfl
@[simp] theorem State.withBlit_inflight (s : State) (b : Option Blit) : (s.withBlit b).inflight = s.inflight := rfl
@[simp] theorem State.withBlit_pending (s : State) (b : Option Blit) : (s.withBlit b).pending = s.pending := rfl
@[simp] theorem State.withBlit_sdr (s : State) (b : Option Blit) : (s.withBlit b).sdr = s.sdr := rfl
@[simp] theorem State.withBlit_pstate (s : State) (b : Option Blit) : (s.withBlit b).pstate = s.pstate := rfl
@[simp] theorem State.withBlit_cmdop (s : State) (b : Option Blit) : (s.withBlit b).cmdop = s.cmdop := rfl
@[simp] theorem State.withBlit_we (s : State) (b : Option Blit) : (s.withBlit b).we = s.we := rfl
@[simp] theorem State.withBlit_dataPage (s : State) (b : Option Blit) : (s.withBlit b).dataPage = s.dataPage := rfl
@[simp] theorem State.withBlit_savePage (s : State) (b : Option Blit) : (s.withBlit b).savePage = s.savePage := rfl
@[simp] theorem State.withBlit_inited (s : State) (b : Option Blit) : (s.withBlit b).inited = s.inited := rfl
@[simp] theorem State.withBlit_blit (s : State) (b : Option Blit) : (s.withBlit b).blit = b := rfl
@[simp] theorem State.withBlit_fault (s : State) (b : Option Blit) : (s.withBlit b).fault = s.fault := rfl
@[simp] theorem State.withBlit_refused (s : State) (b : Option Blit) : (s.withBlit b).refused = s.refused := rfl
@[simp] theorem State.withBlit_stuck (s : State) (b : Option Blit) : (s.withBlit b).stuck = s.stuck := rfl
@[simp] theorem State.withBlit_trace (s : State) (b : Option Blit) : (s.withBlit b).trace = s.trace := rfl
@[simp] theorem State.withBlit_responses (s : State) (b : Option Blit) : (s.withBlit b).responses = s.responses := rfl
@[simp] theorem State.withBlit_flash (s : State) (b : Option Blit) : (s.withBlit b).flash = s.flash := rfl
@[simp] theorem State.withBlit_fb (s : State) (b : Option Blit) : (s.withBlit b).fb = s.fb := rfl
@[simp] theorem State.withBlit_pm (s : State) (b : Option Blit) : (s.withBlit b).pm = s.pm := rfl
@[simp] theorem State.withBlit_cfg (s : State) (b : Option Blit) : (s.withBlit b).cfg = s.cfg := rfl
@[simp] theorem State.withBlit_host (s : State) (b : Option Blit) : (s.withBlit b).host = s.host := rfl
@[simp] theorem State.withBlit_draws (s : State) (b : Option Blit) : (s.withBlit b).draws = s.draws := rfl

/-! ### withHost -/

@[simp] theorem State.withHost_cs (s : State) (moves : List HostMove) : (s.withHost moves).cs = s.cs := rfl
@[simp] theorem State.withHost_inflight (s : State) (moves : List HostMove) : (s.withHost moves).inflight = s.inflight := rfl
@[simp] theorem State.withHost_pending (s : State) (moves : List HostMove) : (s.withHost moves).pending = s.pending := rfl
@[simp] theorem State.withHost_sdr (s : State) (moves : List HostMove) : (s.withHost moves).sdr = s.sdr := rfl
@[simp] theorem State.withHost_pstate (s : State) (moves : List HostMove) : (s.withHost moves).pstate = s.pstate := rfl
@[simp] theorem State.withHost_cmdop (s : State) (moves : List HostMove) : (s.withHost moves).cmdop = s.cmdop := rfl
@[simp] theorem State.withHost_we (s : State) (moves : List HostMove) : (s.withHost moves).we = s.we := rfl
@[simp] theorem State.withHost_dataPage (s : State) (moves : List HostMove) : (s.withHost moves).dataPage = s.dataPage := rfl
@[simp] theorem State.withHost_savePage (s : State) (moves : List HostMove) : (s.withHost moves).savePage = s.savePage := rfl
@[simp] theorem State.withHost_inited (s : State) (moves : List HostMove) : (s.withHost moves).inited = s.inited := rfl
@[simp] theorem State.withHost_blit (s : State) (moves : List HostMove) : (s.withHost moves).blit = s.blit := rfl
@[simp] theorem State.withHost_fault (s : State) (moves : List HostMove) : (s.withHost moves).fault = s.fault := rfl
@[simp] theorem State.withHost_refused (s : State) (moves : List HostMove) : (s.withHost moves).refused = s.refused := rfl
@[simp] theorem State.withHost_stuck (s : State) (moves : List HostMove) : (s.withHost moves).stuck = s.stuck := rfl
@[simp] theorem State.withHost_trace (s : State) (moves : List HostMove) : (s.withHost moves).trace = s.trace := rfl
@[simp] theorem State.withHost_responses (s : State) (moves : List HostMove) : (s.withHost moves).responses = s.responses := rfl
@[simp] theorem State.withHost_flash (s : State) (moves : List HostMove) : (s.withHost moves).flash = s.flash := rfl
@[simp] theorem State.withHost_fb (s : State) (moves : List HostMove) : (s.withHost moves).fb = s.fb := rfl
@[simp] theorem State.withHost_pm (s : State) (moves : List HostMove) : (s.withHost moves).pm = s.pm := rfl
@[simp] theorem State.withHost_cfg (s : State) (moves : List HostMove) : (s.withHost moves).cfg = s.cfg := rfl
@[simp] theorem State.withHost_host (s : State) (moves : List HostMove) : (s.withHost moves).host = moves := rfl
@[simp] theorem State.withHost_draws (s : State) (moves : List HostMove) : (s.withHost moves).draws = s.draws := rfl

/-! ### refuse -/

@[simp] theorem State.refuse_cs (s : State) (e : DecodeError) : (s.refuse e).cs = s.cs := rfl
@[simp] theorem State.refuse_inflight (s : State) (e : DecodeError) : (s.refuse e).inflight = s.inflight := rfl
@[simp] theorem State.refuse_pending (s : State) (e : DecodeError) : (s.refuse e).pending = s.pending := rfl
@[simp] theorem State.refuse_sdr (s : State) (e : DecodeError) : (s.refuse e).sdr = s.sdr := rfl
@[simp] theorem State.refuse_pstate (s : State) (e : DecodeError) : (s.refuse e).pstate = s.pstate := rfl
@[simp] theorem State.refuse_cmdop (s : State) (e : DecodeError) : (s.refuse e).cmdop = s.cmdop := rfl
@[simp] theorem State.refuse_we (s : State) (e : DecodeError) : (s.refuse e).we = s.we := rfl
@[simp] theorem State.refuse_dataPage (s : State) (e : DecodeError) : (s.refuse e).dataPage = s.dataPage := rfl
@[simp] theorem State.refuse_savePage (s : State) (e : DecodeError) : (s.refuse e).savePage = s.savePage := rfl
@[simp] theorem State.refuse_inited (s : State) (e : DecodeError) : (s.refuse e).inited = s.inited := rfl
@[simp] theorem State.refuse_blit (s : State) (e : DecodeError) : (s.refuse e).blit = s.blit := rfl
@[simp] theorem State.refuse_fault (s : State) (e : DecodeError) : (s.refuse e).fault = s.fault := rfl
@[simp] theorem State.refuse_refused (s : State) (e : DecodeError) : (s.refuse e).refused = some (Refusal.ofDecode e) := rfl
@[simp] theorem State.refuse_stuck (s : State) (e : DecodeError) : (s.refuse e).stuck = s.stuck := rfl
@[simp] theorem State.refuse_trace (s : State) (e : DecodeError) : (s.refuse e).trace = s.trace := rfl
@[simp] theorem State.refuse_responses (s : State) (e : DecodeError) : (s.refuse e).responses = s.responses := rfl
@[simp] theorem State.refuse_flash (s : State) (e : DecodeError) : (s.refuse e).flash = s.flash := rfl
@[simp] theorem State.refuse_fb (s : State) (e : DecodeError) : (s.refuse e).fb = s.fb := rfl
@[simp] theorem State.refuse_pm (s : State) (e : DecodeError) : (s.refuse e).pm = s.pm := rfl
@[simp] theorem State.refuse_cfg (s : State) (e : DecodeError) : (s.refuse e).cfg = s.cfg := rfl
@[simp] theorem State.refuse_host (s : State) (e : DecodeError) : (s.refuse e).host = s.host := rfl
@[simp] theorem State.refuse_draws (s : State) (e : DecodeError) : (s.refuse e).draws = s.draws := rfl

end Sys2Proof.Machine
end

