-- ==== Sys2Proof/Laws/Ops.lean ====
section
/-! SUPPORT. What each shared operation can do, said once: for a transfer and everything made of transfers, the state it
answers where it can run. -/

namespace Sys2Proof.Machine

/-! ## Sequences -/

@[simp] theorem Res.bind_ok {α β : Type} (a : α) (s : State) (f : α → State → Res β) :
    (Res.ok a s).bind f = f a s := rfl
@[simp] theorem Res.bind_halt {α β : Type} (w : Stop) (s : State) (f : α → State → Res β) :
    (Res.halt w s : Res α).bind f = .halt w s := rfl

@[simp] theorem require_true (s : State) : require true s = .ok () s := rfl
@[simp] theorem require_false (s : State) : require false s = .halt .misuse s := rfl
theorem require_eq (p : Bool) (s : State) : require p s = if p then .ok () s else .halt .misuse s := rfl

theorem require_of {p : Bool} (h : p = true) (s : State) : require p s = .ok () s := by subst h; rfl
theorem require_not {p : Bool} (h : p = false) (s : State) : require p s = .halt .misuse s := by subst h; rfl

/-! ## The trace as it is seen -/

@[simp] theorem Event.seen_sel : Event.seen .sel = .sel := rfl
@[simp] theorem Event.seen_desel : Event.seen .desel = .desel := rfl

/-- The level of CS after a longer trace. -/
theorem traceLevel_append (cs : Bool) (t u : List Event) :
    traceLevel cs (t ++ u) = (traceLevel cs t).bind fun level => traceLevel level u := by
  induction t generalizing cs with
  | nil => rfl
  | cons e rest ih =>
    cases e with
    | sel => cases cs <;> simp [traceLevel, ih]
    | desel => cases cs <;> simp [traceLevel, ih]
    | xfer tx rx drawn => cases cs <;> cases drawn <;> simp [traceLevel, ih]

/-! ## One answer -/

/-- The state after an exchange differs from the state before it in the part and the draws alone. -/
theorem answerOf_state (b : Byte) (s : State) :
    (answerOf b s).2.2 =
      { s with
        flash := if s.cs then (s.flash.exchange s.cfg b).2 else s.flash
        draws := if (answerOf b s).2.1 then s.draws + 1 else s.draws } := by
  unfold answerOf
  cases hc : s.cs
  · cases s; simp_all [State.drew]
  · simp only [if_true]
    rcases hx : s.flash.exchange s.cfg b with ⟨_ | r, f⟩ <;> cases s <;> simp_all [State.drew, State.withFlash]

/-- Whether the answer is a draw, and which byte it is. -/
theorem answerOf_value (b : Byte) (s : State) :
    ((answerOf b s).1, (answerOf b s).2.1) =
      match (if s.cs then (s.flash.exchange s.cfg b).1 else none) with
      | some r => (r, false)
      | none => (any8 s.draws, true) := by
  unfold answerOf
  cases hc : s.cs
  · rfl
  · simp only [if_true]
    rcases hx : s.flash.exchange s.cfg b with ⟨_ | r, f⟩ <;> rfl

/-- The event of a transfer as it is seen. -/
theorem answerOf_event (b : Byte) (s : State) :
    Event.seen (.xfer b (answerOf b s).1 (answerOf b s).2.1) =
      match (if s.cs then (s.flash.exchange s.cfg b).1 else none) with
      | some r => .xfer b r false
      | none => .xfer b 0 true := by
  have h := answerOf_value b s
  revert h
  generalize (if s.cs then (s.flash.exchange s.cfg b).1 else none) = o
  cases o <;> intro h <;> simp only [Prod.mk.injEq] at h <;> simp [Event.seen, h.1, h.2]

/-- A deselected part answers nothing. -/
theorem answerOf_drawn_of_low (b : Byte) (s : State) (h : s.cs = false) : (answerOf b s).2.1 = true := by
  unfold answerOf; simp [h]

/-! ## `Issue`, `Wait`, `Xfer` -/

/-- The state after `Issue(b)`. -/
def State.issued (s : State) (b : Byte) : State :=
  ((answerOf b s).2.2.launch (answerOf b s).1).log (.xfer b (answerOf b s).1 (answerOf b s).2.1)

/-- The state after a whole transfer. -/
def State.sent (s : State) (b : Byte) : State := (s.issued b).shifted

/-- No contract of the part can be broken by this byte. -/
def State.safeByte (s : State) (b : Byte) : Prop := s.flash.takesSafely s.cfg b

@[simp] theorem State.issued_cs (s : State) (b : Byte) : (s.issued b).cs = s.cs := by
  simp [State.issued, answerOf_state]
@[simp] theorem State.issued_inflight (s : State) (b : Byte) : (s.issued b).inflight = true := by
  simp [State.issued]
@[simp] theorem State.issued_pending (s : State) (b : Byte) : (s.issued b).pending = (answerOf b s).1 := by
  simp [State.issued]
@[simp] theorem State.issued_sdr (s : State) (b : Byte) : (s.issued b).sdr = s.sdr := by
  simp [State.issued, answerOf_state]
@[simp] theorem State.issued_pstate (s : State) (b : Byte) : (s.issued b).pstate = s.pstate := by
  simp [State.issued, answerOf_state]
@[simp] theorem State.issued_cmdop (s : State) (b : Byte) : (s.issued b).cmdop = s.cmdop := by
  simp [State.issued, answerOf_state]
@[simp] theorem State.issued_we (s : State) (b : Byte) : (s.issued b).we = s.we := by
  simp [State.issued, answerOf_state]
@[simp] theorem State.issued_dataPage (s : State) (b : Byte) : (s.issued b).dataPage = s.dataPage := by
  simp [State.issued, answerOf_state]
@[simp] theorem State.issued_savePage (s : State) (b : Byte) : (s.issued b).savePage = s.savePage := by
  simp [State.issued, answerOf_state]
@[simp] theorem State.issued_inited (s : State) (b : Byte) : (s.issued b).inited = s.inited := by
  simp [State.issued, answerOf_state]
@[simp] theorem State.issued_blit (s : State) (b : Byte) : (s.issued b).blit = s.blit := by
  simp [State.issued, answerOf_state]
@[simp] theorem State.issued_fault (s : State) (b : Byte) : (s.issued b).fault = s.fault := by
  simp [State.issued, answerOf_state]
@[simp] theorem State.issued_refused (s : State) (b : Byte) : (s.issued b).refused = s.refused := by
  simp [State.issued, answerOf_state]
@[simp] theorem State.issued_stuck (s : State) (b : Byte) : (s.issued b).stuck = s.stuck := by
  simp [State.issued, answerOf_state]
@[simp] theorem State.issued_trace (s : State) (b : Byte) :
    (s.issued b).trace = s.trace ++ [.xfer b (answerOf b s).1 (answerOf b s).2.1] := by
  simp [State.issued, answerOf_state]
@[simp] theorem State.issued_responses (s : State) (b : Byte) : (s.issued b).responses = s.responses := by
  simp [State.issued, answerOf_state]
@[simp] theorem State.issued_flash (s : State) (b : Byte) :
    (s.issued b).flash = if s.cs then (s.flash.exchange s.cfg b).2 else s.flash := by
  simp [State.issued, answerOf_state]
@[simp] theorem State.issued_fb (s : State) (b : Byte) : (s.issued b).fb = s.fb := by
  simp [State.issued, answerOf_state]
@[simp] theorem State.issued_pm (s : State) (b : Byte) : (s.issued b).pm = s.pm := by
  simp [State.issued, answerOf_state]
@[simp] theorem State.issued_cfg (s : State) (b : Byte) : (s.issued b).cfg = s.cfg := by
  simp [State.issued, answerOf_state]
@[simp] theorem State.issued_host (s : State) (b : Byte) : (s.issued b).host = s.host := by
  simp [State.issued, answerOf_state]

theorem issue_eq (b : Byte) (s : State) :
    issue b s =
      if s.inflight then .halt .misuse s
      else if !s.flash.bad && (s.issued b).flash.bad then
        .halt (.contract 3 (s.issued b).flash.op) (s.issued b)
      else .ok () (s.issued b) := by
  unfold issue
  cases h : s.inflight
  · simp only [Bool.not_false, require_true, Res.bind_ok, Bool.false_eq_true, if_false]
    rfl
  · rfl

/-- `Issue` runs where no transfer is in flight and no contract is broken. -/
theorem issue_run (b : Byte) (s : State) (h : s.inflight = false) (hs : s.safeByte b) :
    issue b s = .ok () (s.issued b) := by
  have hb : (s.issued b).flash.bad = s.flash.bad := by
    rw [State.issued_flash]
    split
    · exact FlashPart.exchange_bad_same _ _ _ hs
    · rfl
  rw [issue_eq, h, hb]
  simp

theorem wait_eq (s : State) :
    wait s = if s.inflight then (if s.cfg.busOk then .ok () s.shifted else .halt .hang s) else .ok () s := by
  unfold wait shifterStep
  cases h : s.inflight <;> cases hb : s.cfg.busOk <;> simp

@[simp] theorem State.sent_inflight (s : State) (b : Byte) : (s.sent b).inflight = false := rfl
@[simp] theorem State.sent_sdr (s : State) (b : Byte) : (s.sent b).sdr = (answerOf b s).1 := by
  simp [State.sent]
@[simp] theorem State.sent_pending (s : State) (b : Byte) : (s.sent b).pending = (answerOf b s).1 := by
  simp [State.sent]
@[simp] theorem State.sent_cs (s : State) (b : Byte) : (s.sent b).cs = s.cs := by simp [State.sent]
@[simp] theorem State.sent_pstate (s : State) (b : Byte) : (s.sent b).pstate = s.pstate := by simp [State.sent]
@[simp] theorem State.sent_cmdop (s : State) (b : Byte) : (s.sent b).cmdop = s.cmdop := by simp [State.sent]
@[simp] theorem State.sent_we (s : State) (b : Byte) : (s.sent b).we = s.we := by simp [State.sent]
@[simp] theorem State.sent_dataPage (s : State) (b : Byte) : (s.sent b).dataPage = s.dataPage := by
  simp [State.sent]
@[simp] theorem State.sent_savePage (s : State) (b : Byte) : (s.sent b).savePage = s.savePage := by
  simp [State.sent]
@[simp] theorem State.sent_inited (s : State) (b : Byte) : (s.sent b).inited = s.inited := by simp [State.sent]
@[simp] theorem State.sent_blit (s : State) (b : Byte) : (s.sent b).blit = s.blit := by simp [State.sent]
@[simp] theorem State.sent_fault (s : State) (b : Byte) : (s.sent b).fault = s.fault := by simp [State.sent]
@[simp] theorem State.sent_refused (s : State) (b : Byte) : (s.sent b).refused = s.refused := by
  simp [State.sent]
@[simp] theorem State.sent_stuck (s : State) (b : Byte) : (s.sent b).stuck = s.stuck := by simp [State.sent]
@[simp] theorem State.sent_trace (s : State) (b : Byte) :
    (s.sent b).trace = s.trace ++ [.xfer b (answerOf b s).1 (answerOf b s).2.1] := by simp [State.sent]
@[simp] theorem State.sent_responses (s : State) (b : Byte) : (s.sent b).responses = s.responses := by
  simp [State.sent]
@[simp] theorem State.sent_flash (s : State) (b : Byte) :
    (s.sent b).flash = if s.cs then (s.flash.exchange s.cfg b).2 else s.flash := by simp [State.sent]
@[simp] theorem State.sent_fb (s : State) (b : Byte) : (s.sent b).fb = s.fb := by simp [State.sent]
@[simp] theorem State.sent_pm (s : State) (b : Byte) : (s.sent b).pm = s.pm := by simp [State.sent]
@[simp] theorem State.sent_cfg (s : State) (b : Byte) : (s.sent b).cfg = s.cfg := by simp [State.sent]
@[simp] theorem State.sent_host (s : State) (b : Byte) : (s.sent b).host = s.host := by simp [State.sent]

/-- `Xfer` runs where a transfer can be made and no contract is broken. -/
theorem xfer_run (b : Byte) (s : State) (h : s.canTransfer = true) (hs : s.safeByte b) :
    xfer b s = .ok (answerOf b s).1 (s.sent b) := by
  simp only [State.canTransfer, Bool.and_eq_true, Bool.not_eq_true'] at h
  unfold xfer
  rw [issue_run b s h.2 hs, Res.bind_ok, wait_eq]
  simp only [State.issued_inflight, State.issued_cfg, h.1, if_true, Res.bind_ok]
  simp [State.sent]

/-! ## A run of bytes -/

/-- The state after a run of bytes. -/
def State.sentAll (s : State) (bytes : List Byte) : State := bytes.foldl State.sent s

/-- What a run of bytes on an open bus does: the part is fed them, the wire shows them, and nothing else of the engine but the
data registers moves. -/
structure Sends (bytes : List Byte) (s t : State) : Prop where
  cs : t.cs = true
  inflight : t.inflight = false
  pstate : t.pstate = s.pstate
  cmdop : t.cmdop = s.cmdop
  we : t.we = s.we
  responses : t.responses = s.responses
  flash : t.flash = s.flash.feed s.cfg bytes
  wire : t.wire = s.wire ++ s.flash.talk s.cfg bytes
  kept : s.kept t

theorem State.kept_refl (s : State) : s.kept s :=
  ⟨rfl, rfl, rfl, rfl, rfl, rfl, rfl, rfl, rfl, rfl, rfl⟩

theorem State.kept_trans {s t u : State} (h : s.kept t) (g : t.kept u) : s.kept u := by
  obtain ⟨h1, h2, h3, h4, h5, h6, h7, h8, h9, h10, h11⟩ := h
  obtain ⟨g1, g2, g3, g4, g5, g6, g7, g8, g9, g10, g11⟩ := g
  exact ⟨g1.trans h1, g2.trans h2, g3.trans h3, g4.trans h4, g5.trans h5, g6.trans h6, g7.trans h7, g8.trans h8,
    g9.trans h9, g10.trans h10, g11.trans h11⟩

theorem State.kept_cfg {s t : State} (h : s.kept t) : t.cfg = s.cfg := h.2.2.2.2.2.2.2.2.2.1

theorem Sends.nil {s : State} (hc : s.cs = true) (hi : s.inflight = false) : Sends [] s s where
  cs := hc
  inflight := hi
  pstate := rfl
  cmdop := rfl
  we := rfl
  responses := rfl
  flash := rfl
  wire := by simp
  kept := s.kept_refl

theorem Sends.one {b : Byte} {s : State} (hc : s.cs = true) : Sends [b] s (s.sent b) where
  cs := by simp [hc]
  inflight := rfl
  pstate := by simp
  cmdop := by simp
  we := by simp
  responses := by simp
  flash := by simp [hc]
  wire := by
    simp only [State.wire, State.sent_trace, List.map_append, List.map_cons, List.map_nil, answerOf_event, hc,
      if_true, FlashPart.talk_cons, FlashPart.talk_nil] <;> rfl
  kept := by simp [State.kept]

theorem Sends.append {l r : List Byte} {s t u : State} (h : Sends l s t) (g : Sends r t u) :
    Sends (l ++ r) s u where
  cs := g.cs
  inflight := g.inflight
  pstate := g.pstate.trans h.pstate
  cmdop := g.cmdop.trans h.cmdop
  we := g.we.trans h.we
  responses := g.responses.trans h.responses
  flash := by rw [g.flash, h.flash, State.kept_cfg h.kept, FlashPart.feed_append]
  wire := by rw [g.wire, h.wire, h.flash, State.kept_cfg h.kept, FlashPart.talk_append, List.append_assoc]
  kept := State.kept_trans h.kept g.kept

/-- `sendAll` runs on an open bus where a transfer can be made and no contract is broken. -/
theorem sendAll_run (bytes : List Byte) (s : State) (hc : s.cs = true) (h : s.canTransfer = true)
    (hs : ∀ b ∈ bytes.head?, s.safeByte b) : ∃ t, sendAll bytes s = .ok () t ∧ Sends bytes s t := by
  induction bytes generalizing s with
  | nil =>
    simp only [State.canTransfer, Bool.and_eq_true, Bool.not_eq_true'] at h
    exact ⟨s, rfl, Sends.nil hc h.2⟩
  | cons b rest ih =>
    have ht : (s.sent b).canTransfer = true := by
      simp only [State.canTransfer, Bool.and_eq_true, Bool.not_eq_true'] at h ⊢
      simp [h.1]
    have hs' : ∀ c ∈ rest.head?, (s.sent b).safeByte c := fun c _ => .inr (by simp [hc])
    obtain ⟨t, hrun, hsend⟩ := ih (s.sent b) (by simp [hc]) ht hs'
    refine ⟨t, ?_, ?_⟩
    · unfold sendAll
      rw [xfer_run b s h (hs b rfl), Res.bind_ok, hrun]
    · exact Sends.append (l := [b]) (Sends.one hc) hsend

/-! ## Opening and closing a frame -/

theorem select_eq (s : State) : select s = if s.cs then s else s.openBus := rfl

theorem canBegin_parts {s : State} (h : s.canBegin = true) :
    s.canTransfer = true ∧ canOpen s.pstate = true ∧ s.cs = (s.pstate == .selected) ∧ s.flash.n = 0 ∧
      (!s.cfg.strict || !s.flash.pd) = true := by
  simp only [State.canBegin, Bool.and_eq_true, beq_iff_eq] at h
  exact ⟨h.1.1.1.1, h.1.1.1.2, h.1.1.2, h.1.2, h.2⟩

theorem canBeginFrame_parts {op : Byte} {s : State} (h : s.canBeginFrame op = true) :
    s.canTransfer = true ∧ canOpen s.pstate = true ∧ s.cs = (s.pstate == .selected) ∧ s.flash.n = 0 ∧
      (!s.cfg.strict || !s.flash.pd || !hasAddress s.cfg op) = true := by
  simp only [State.canBeginFrame, Bool.and_eq_true, beq_iff_eq] at h
  exact ⟨h.1.1.1.1, h.1.1.1.2, h.1.1.2, h.1.2, h.2⟩

/-- Where a command can begin, a frame of any opcode can be opened. -/
theorem canBegin_frame {s : State} (h : s.canBegin = true) (op : Byte) : s.canBeginFrame op = true := by
  simp only [State.canBegin, Bool.and_eq_true] at h
  simp only [State.canBeginFrame, Bool.and_eq_true]
  exact ⟨h.1, by rw [h.2]; rfl⟩

/-- On a part that is awake, or does not enforce its contracts, the opcode makes no difference. -/
theorem canBeginFrame_awake {op : Byte} {s : State} (h : s.canBeginFrame op = true)
    (hs : s.cfg.strict = false ∨ s.flash.pd = false) : s.canBegin = true := by
  obtain ⟨h1, h2, h3, h4, -⟩ := canBeginFrame_parts h
  rcases hs with hs | hs <;> simp [State.canBegin, h1, h2, h3, h4, hs]

theorem canTransfer_parts {s : State} (h : s.canTransfer = true) : s.cfg.busOk = true ∧ s.inflight = false := by
  simpa [State.canTransfer] using h

/-- The state once chip-select is asserted, in either phase in which a frame may be opened. -/
theorem select_spec {op : Byte} {s : State} (h : s.canBeginFrame op = true) :
    (select s).cs = true ∧ (select s).pstate = .selected ∧ (select s).flash = s.flash ∧
      (select s).trace = s.trace ++ s.opening ∧ (select s).inflight = false ∧ (select s).cmdop = s.cmdop ∧
      (select s).we = s.we ∧ (select s).responses = s.responses ∧ s.kept (select s) := by
  obtain ⟨ht, ho, hcs, hn, -⟩ := canBeginFrame_parts h
  have hi := (canTransfer_parts ht).2
  rw [select_eq]
  cases hc : s.cs
  · simp [State.opening, hc, hi, State.kept, FlashPart.select_fresh _ hn]
  · have hp : s.pstate = .selected := by simpa [hc] using hcs
    simp [State.opening, hc, hi, State.kept, hp]

/-- Opening a frame runs where a frame of that opcode can be opened. -/
theorem open_run (op : Byte) (s : State) (h : s.canBeginFrame op = true) :
    ∃ t, xferTracked op (select s) = .ok (answerOf op ((select s).openCommand op)).1 t ∧ FrameOpened op [] [] s t := by
  obtain ⟨hcs, hp, hf, htr, hi, hcm, hwe, hre, hk⟩ := select_spec h
  obtain ⟨ht, -, -, hn, hsafe⟩ := canBeginFrame_parts h
  have hcfg : (select s).cfg = s.cfg := State.kept_cfg hk
  have hct : ((select s).openCommand op).canTransfer = true := by
    simp [State.canTransfer, hcfg, hi, (canTransfer_parts ht).1]
  have hsb : ((select s).openCommand op).safeByte op := by
    refine .inl ?_
    simpa [hcfg, hf] using hsafe
  refine ⟨((select s).openCommand op).sent op, ?_, ?_⟩
  · unfold xferTracked
    rw [if_pos hp, xfer_run op _ hct hsb]
  · have hone : Sends [op] ((select s).openCommand op) (((select s).openCommand op).sent op) :=
      Sends.one (by simpa using hcs)
    exact {
      cs := hone.cs
      inflight := rfl
      pstate := by simp
      cmdop := by simp
      we := by simp [hwe]
      responses := by simp [hre]
      flash := by rw [hone.flash]; simp [hcfg, hf]
      wire := by
        rw [hone.wire]
        simp only [State.wire, State.openCommand_trace, State.openCommand_flash, State.openCommand_cfg, htr, hf, hcfg,
          List.map_append, List.append_assoc]
        congr 2
        unfold State.opening; split <;> rfl
      kept := State.kept_trans hk (State.kept_trans (by simp [State.kept]) hone.kept) }

/-- More bytes of an open frame. -/
theorem FrameOpened.append {op : Byte} {l r : List Byte} {s t u : State} (h : FrameOpened op l [] s t) (g : Sends r t u) :
    FrameOpened op (l ++ r) [] s u where
  cs := g.cs
  inflight := g.inflight
  pstate := g.pstate.trans h.pstate
  cmdop := g.cmdop.trans h.cmdop
  we := g.we.trans h.we
  responses := g.responses.trans h.responses
  flash := by
    rw [g.flash, h.flash, State.kept_cfg h.kept, ← FlashPart.feed_append]; rfl
  wire := by
    rw [g.wire, h.wire, h.flash, State.kept_cfg h.kept, List.append_assoc, List.append_assoc, ← FlashPart.talk_append]
    rfl
  kept := State.kept_trans h.kept g.kept

theorem FrameOpened.sendMore {op : Byte} {l : List Byte} {s t : State} (h : FrameOpened op l [] s t) (hb : s.cfg.busOk = true)
    (r : List Byte) : ∃ u, sendAll r t = .ok () u ∧ FrameOpened op (l ++ r) [] s u := by
  have hct : t.canTransfer = true := by
    simp [State.canTransfer, h.inflight, State.kept_cfg h.kept, hb]
  have hsb : ∀ b ∈ r.head?, t.safeByte b := fun _ _ => .inr (by rw [h.flash]; simp; omega)
  obtain ⟨u, hrun, hsend⟩ := sendAll_run r t h.cs hct hsb
  exact ⟨u, hrun, h.append hsend⟩

/-- `Seek` runs where a frame of its opcode can be opened (`41_protocol_engine.md` R131). -/
theorem seek_run (op : Byte) (a : Addr) (s : State) (h : s.canBeginFrame op = true) :
    ∃ t, seek op a s = .ok () t ∧ FrameOpened op [addrHi a, addrMid a, addrLo a] [] s t := by
  obtain ⟨ht, ho, -, -, -⟩ := canBeginFrame_parts h
  obtain ⟨t, hrun, hopen⟩ := open_run op s h
  obtain ⟨u, hrun2, hopen2⟩ := hopen.sendMore (canTransfer_parts ht).1 [addrHi a, addrMid a, addrLo a]
  refine ⟨u, ?_, hopen2⟩
  unfold seek
  rw [require_of ho, Res.bind_ok, hrun, Res.bind_ok, hrun2]

theorem deselect_eq (s : State) :
    deselect s =
      if s.inflight then .halt .misuse s
      else if s.cs then
        if !s.flash.bad && (s.flash.deselect s.cfg).bad then .halt (.contract 2 s.flash.op) s.dropBus
        else .ok () s.dropBus.closePhase
      else .ok () s := by
  unfold deselect
  cases h : s.inflight
  · simp only [Bool.not_false, require_true, Res.bind_ok, Bool.false_eq_true, if_false]
    rfl
  · rfl

/-- The part is not broken by the deselect that closes this frame. -/
def closesSafely (cfg : Config) (op : Byte) (rest : List Byte) : Prop :=
  cfg.strict = false ∨ op ≠ cfg.opWrite ∨ rest.length < 4

theorem FrameOpened.close {op : Byte} {rest : List Byte} {s t : State} (h : FrameOpened op rest [] s t) (hn : s.flash.n = 0)
    (hc : closesSafely s.cfg op rest) :
    deselect t = .ok () t.dropBus.closePhase ∧ FrameSent op rest [] s t.dropBus.closePhase := by
  have hcfg : t.cfg = s.cfg := State.kept_cfg h.kept
  have hbad : (t.flash.deselect t.cfg).bad = t.flash.bad := by
    by_cases hst : s.cfg.strict = false
    · exact FlashPart.deselect_bad_same _ _ (.inl (by rw [hcfg]; exact hst))
    · by_cases hfb : s.flash.bad = true
      · -- a broken part stays broken
        have ht : t.flash.bad = true := by
          rw [h.flash]; exact FlashPart.feed_bad_stays _ _ _ hfb
        unfold FlashPart.deselect
        simp [ht]
      · refine FlashPart.deselect_bad_same _ _ (.inr ?_)
        rw [hcfg, h.flash]
        rintro ⟨h1, h2⟩
        have hop : (s.flash.feed s.cfg (op :: rest)).op = op := by
          rw [FlashPart.feed_cons, FlashPart.feed_op _ _ _ (by simp), FlashPart.exchange_op,
            if_pos ⟨by simpa using hfb, hn⟩]
        rcases hc with hc | hc | hc
        · exact hst hc
        · exact hc (hop ▸ h1)
        · simp [hn] at h2; omega
  constructor
  · rw [deselect_eq]
    simp [h.inflight, h.cs, hbad]
  · exact {
      cs := rfl
      inflight := by simpa using h.inflight
      pstate := rfl
      cmdop := by simpa using h.cmdop
      we := by simp [hcfg, h.pstate, h.cmdop, h.we]
      responses := by simpa using h.responses
      flash := by simp [hcfg, h.flash]
      wire := by
        have := h.wire
        simp only [State.wire] at this ⊢
        simp [this]
      kept := State.kept_trans h.kept (by simp [State.kept]) }

/-- A whole frame runs where a frame of its opcode can be opened (`30_encoding.md` R91 to R93). -/
theorem sendFrame_run (op : Byte) (rest : List Byte) (s : State) (h : s.canBeginFrame op = true)
    (hc : closesSafely s.cfg op rest) : ∃ t, sendFrame op rest s = .ok () t ∧ FrameSent op rest [] s t := by
  obtain ⟨ht, ho, -, hn, -⟩ := canBeginFrame_parts h
  obtain ⟨t, hrun, hopen⟩ := open_run op s h
  obtain ⟨u, hrun2, hopen2⟩ := hopen.sendMore (canTransfer_parts ht).1 rest
  obtain ⟨hd, hf⟩ := hopen2.close hn hc
  refine ⟨_, ?_, hf⟩
  unfold sendFrame
  rw [require_of ho, Res.bind_ok, hrun, Res.bind_ok, hrun2, Res.bind_ok, hd]

/-- `WriteCmd` is the one-byte frame (`41_protocol_engine.md` R130; `30_encoding.md` R91). -/
theorem writeCmd_eq (op : Byte) (s : State) : writeCmd op s = sendFrame op [] s := rfl

/-- `Seek` then `Deselect` is the four-byte frame (`30_encoding.md` R92). -/
theorem seek_deselect_eq (op : Byte) (a : Addr) (s : State) :
    (seek op a s).bind (fun _ s => deselect s) = sendFrame op [addrHi a, addrMid a, addrLo a] s := by
  unfold seek sendFrame
  cases require (canOpen s.pstate) s <;> simp only [Res.bind_ok, Res.bind_halt]
  cases xferTracked op (select _) <;> simp only [Res.bind_ok, Res.bind_halt]

/-- After a frame another command may begin. -/
theorem FrameSent.canBegin {op : Byte} {rest : List Byte} {s t : State} (h : FrameSent op rest [] s t)
    (hb : s.cfg.busOk = true) (hs : s.cfg.strict = false ∨ t.flash.pd = false) : t.canBegin = true := by
  have hcfg : t.cfg = s.cfg := State.kept_cfg h.kept
  simp only [State.canBegin, State.canTransfer, hcfg, hb, h.inflight, h.pstate, h.cs, h.flash, canOpen]
  rcases hs with hs | hs
  · simp [hs]
  · rw [h.flash, FlashPart.feed_cons] at hs; simp [hs]

end Sys2Proof.Machine
end

