-- ==== Sys2Proof/Laws/Reads.lean ====
section
/-! SUPPORT. The pipelined read (`41_protocol_engine.md` R132 to R134): its three primitives where they can run, and what a
chain of them may rely on. -/

namespace Sys2Proof.Machine

theorem canHarvest_parts {s : State} (h : s.canHarvest = true) :
    s.cfg.busOk = true ∧ s.pstate = .reading ∧ s.cs = true ∧ 1 ≤ s.flash.n ∧
      (!s.cfg.strict || s.flash.bad || s.flash.op != s.cfg.opWrite) = true := by
  simp only [State.canHarvest, Bool.and_eq_true, beq_iff_eq, decide_eq_true_eq] at h
  exact ⟨h.1.1.1.1, h.1.1.1.2, h.1.1.2, h.1.2, h.2⟩

/-- The state after the outstanding transfer was waited for. -/
def State.waited (s : State) : State := if s.inflight then s.shifted else s

theorem wait_run {s : State} (h : s.cfg.busOk = true) : wait s = .ok () s.waited := by
  rw [wait_eq, State.waited]
  cases hi : s.inflight <;> simp [h]

/-- A wait that completes changes the data register and INFLIGHT alone. -/
theorem waited_spec (s : State) (hp : s.pstate = .reading) :
    s.waited.inflight = false ∧ s.waited.sdr = s.outstanding ∧ s.waited.cs = s.cs ∧ s.waited.pstate = .reading ∧
      s.waited.cmdop = s.cmdop ∧ s.waited.we = s.we ∧ s.waited.responses = s.responses ∧ s.waited.flash = s.flash ∧
      s.waited.trace = s.trace ∧ s.kept s.waited := by
  unfold State.waited State.outstanding
  cases hi : s.inflight <;> simp [hi, hp, State.kept]

/-- The answer of the part to a byte issued on an open bus is what is outstanding afterwards. -/
theorem issued_outstanding (b : Byte) (s : State) (hc : s.cs = true) (r : Byte)
    (hr : (s.flash.exchange s.cfg b).1 = some r) : (s.issued b).outstanding = r := by
  have hv := answerOf_value b s
  simp only [hc, if_true, hr, Prod.mk.injEq] at hv
  simp [State.outstanding, hv.1]

/-- The wire after a byte issued on an open bus. -/
theorem issued_wire (b : Byte) (s : State) (hc : s.cs = true) :
    (s.issued b).wire = s.wire ++ s.flash.talk s.cfg [b] := by
  simp only [State.wire, State.issued_trace, List.map_append, List.map_cons, List.map_nil, answerOf_event, hc,
    if_true, FlashPart.talk_cons, FlashPart.talk_nil] <;> rfl

/-- `ReadPending` runs in a pipelined read (`41_protocol_engine.md` R133). -/
theorem readPending_run (s : State) (h : s.canHarvest = true) :
    ∃ t, readPending s = .ok s.outstanding t ∧ ByteHarvested [] s t := by
  obtain ⟨hb, hp, hc, hn, -⟩ := canHarvest_parts h
  obtain ⟨hi, hsdr, hcs, hps, hcm, hwe, hre, hfl, htr, hk⟩ := waited_spec s hp
  have hcfg : s.waited.cfg = s.cfg := State.kept_cfg hk
  refine ⟨s.waited.issued dummyByte, ?_, ?_⟩
  · unfold readPending
    rw [require_of (by simp [hp]), Res.bind_ok, wait_run hb, Res.bind_ok]
    dsimp only
    rw [issue_run dummyByte s.waited hi (.inr (by rw [hfl]; exact hn)), Res.bind_ok, hsdr]
  · exact {
      cs := by simp [hcs, hc]
      inflight := by simp
      sdr := by simp [hsdr]
      pstate := by simp [hps]
      cmdop := by simp [hcm]
      we := by simp [hwe]
      responses := by simp [hre]
      flash := by simp [hcs, hc, hfl, hcfg]
      wire := by rw [issued_wire _ _ (hcs.trans hc), hfl, hcfg]; simp [State.wire, htr]
      outstanding := fun r hr => issued_outstanding _ _ (hcs.trans hc) r (by rw [hfl, hcfg]; exact hr)
      kept := State.kept_trans hk (by simp [State.kept]) }

/-- After a harvested byte another one can be harvested. -/
theorem ByteHarvested.canHarvest {given : List Resp} {s t : State} (g : ByteHarvested given s t)
    (h : s.canHarvest = true) : t.canHarvest = true := by
  obtain ⟨hb, hp, hc, hn, hst⟩ := canHarvest_parts h
  have hop : t.flash.op = s.flash.op := by rw [g.flash]; exact FlashPart.feed_op _ _ _ hn
  have hbad : t.flash.bad = s.flash.bad := by rw [g.flash]; exact FlashPart.feed_bad_same _ _ _ (fun _ _ => .inr hn)
  have hn' : 1 ≤ t.flash.n := by rw [g.flash]; simp
  simp only [State.canHarvest, State.kept_cfg g.kept, hb, g.pstate, g.cs, hop, hbad, hst, hn', decide_true,
    Bool.and_self, beq_self_eq_true]

/-- The part is not broken by the deselect that ends a pipelined read. -/
theorem readLast_run (s : State) (h : s.canHarvest = true) :
    ∃ t, readLast s = .ok s.outstanding t ∧ ReadEnded [] s t := by
  obtain ⟨hb, hp, hc, hn, hst⟩ := canHarvest_parts h
  obtain ⟨hi, hsdr, hcs, hps, hcm, hwe, hre, hfl, htr, hk⟩ := waited_spec s hp
  have hcfg : s.waited.cfg = s.cfg := State.kept_cfg hk
  have hbad : (s.flash.deselect s.cfg).bad = s.flash.bad := by
    cases hs : s.cfg.strict
    · exact FlashPart.deselect_bad_same _ _ (.inl hs)
    · cases hfb : s.flash.bad
      · rw [FlashPart.deselect_bad_same _ _ (.inr ?_), hfb]
        simp only [hs, hfb, Bool.not_true, Bool.false_or, bne_iff_ne] at hst
        exact fun hx => hst hx.1
      · unfold FlashPart.deselect; simp [hfb]
  refine ⟨s.waited.dropBus.closePhase, ?_, ?_⟩
  · unfold readLast
    rw [require_of (by simp [hp]), Res.bind_ok, wait_run hb, Res.bind_ok]
    dsimp only
    rw [deselect_eq]
    simp [hi, hcs, hc, hfl, hcfg, hbad, hsdr]
  · exact {
      cs := rfl
      inflight := by simpa using hi
      sdr := by simpa using hsdr
      pstate := rfl
      cmdop := by simp [hcm]
      we := by simp [hcfg, hps, hcm, hwe]
      responses := by simp [hre]
      flash := by simp [hfl, hcfg]
      wire := by simp [State.wire, htr]
      kept := State.kept_trans hk (by simp [State.kept]) }

/-- `BeginRead` runs where a command may begin (`41_protocol_engine.md` R132). -/
theorem beginRead_run (a : Addr) (s : State) (h : s.canBegin = true) :
    ∃ t, beginRead a s = .ok () t ∧ ReadOpened a [] s t := by
  obtain ⟨t, hrun, ho⟩ := seek_run WireOp.read a s (canBegin_frame h _)
  have hcfg : t.cfg = s.cfg := State.kept_cfg ho.kept
  refine ⟨(t.issued dummyByte).startReading, ?_, ?_⟩
  · unfold beginRead
    rw [hrun, Res.bind_ok, issue_run dummyByte t ho.inflight (.inr (by rw [ho.flash]; simp)), Res.bind_ok]
  · exact {
      cs := by simp [ho.cs]
      inflight := by simp
      pstate := rfl
      cmdop := by simp [ho.cmdop]
      we := by simp [ho.we]
      responses := by simp [ho.responses]
      flash := by
        simp only [State.startReading_flash, State.issued_flash, ho.cs, if_true, ho.flash, hcfg, FlashPart.feed_cons,
          FlashPart.feed_nil]
      wire := by
        have hw := issued_wire dummyByte t ho.cs
        have : (t.issued dummyByte).startReading.wire = (t.issued dummyByte).wire := rfl
        rw [this, hw, ho.wire, ho.flash, hcfg, List.append_assoc, List.append_assoc, ← FlashPart.talk_append]
        rfl
      outstanding := fun r hr => by
        have := issued_outstanding dummyByte t ho.cs r (by rw [ho.flash, hcfg]; exact hr)
        exact this
      kept := State.kept_trans ho.kept (by simp [State.kept]) }

/-- After an opened read a byte can be harvested. -/
theorem ReadOpened.canHarvest {a : Addr} {given : List Resp} {s t : State} (g : ReadOpened a given s t)
    (h : s.canBegin = true) (hw : s.cfg.opWrite ≠ WireOp.read) : t.canHarvest = true := by
  obtain ⟨ht, -, -, hn, hst⟩ := canBegin_parts h
  have hn' : 1 ≤ t.flash.n := by rw [g.flash, FlashPart.feed_n]; simp
  have hbad : t.flash.bad = s.flash.bad := by rw [g.flash]; exact FlashPart.feed_bad_same _ _ _ (fun _ _ => .inl (by rw [hst]; rfl))
  have hop : s.flash.bad = false → t.flash.op = WireOp.read := by
    intro hb
    rw [g.flash, FlashPart.feed_cons, FlashPart.feed_op _ _ _ (by simp), FlashPart.exchange_op, if_pos ⟨hb, hn⟩]
  have hlast : (!s.cfg.strict || t.flash.bad || t.flash.op != s.cfg.opWrite) = true := by
    cases hb : s.flash.bad
    · simp [hop hb, Ne.symm hw]
    · simp [hbad, hb]
  simp only [State.canHarvest, State.kept_cfg g.kept, (canTransfer_parts ht).1, g.pstate, g.cs, hn', hlast, decide_true,
    Bool.and_self, beq_self_eq_true]

end Sys2Proof.Machine
end

