-- ==== Sys2Proof/Laws/Outcome.lean ====
section
/-! SUPPORT. What every shared operation of the bus can do, however it ends: `Evolves` holds between the state before and the
state after, whether the operation ran or stopped. And what an operation that ran tells about the state it ran in. -/

namespace Sys2Proof.Machine

/-- The state in which an operation ended. -/
def Res.final {α : Type} (r : Res α) : State :=
  match r with
  | .ok _ s => s
  | .halt _ s => s

@[simp] theorem Res.final_ok {α : Type} (a : α) (s : State) : (Res.ok a s).final = s := rfl
@[simp] theorem Res.final_halt {α : Type} (w : Stop) (s : State) : (Res.halt w s : Res α).final = s := rfl

/-- What an operation of the bus can do to the state, however it ends. -/
structure Evolves (s t : State) : Prop where
  kept : s.kept t
  responses : t.responses = s.responses
  history : ∃ events, t.trace = s.trace ++ events
  level : traceLevel false s.trace = some s.cs → traceLevel false t.trace = some t.cs
  memories : 0 < s.cfg.flashBytes → s.memInv = true → t.memInv = true
  quiet : (s.cs || s.flash.n == 0) = true → (t.cs || t.flash.n == 0) = true

theorem Evolves.refl (s : State) : Evolves s s :=
  ⟨s.kept_refl, rfl, ⟨[], by simp⟩, id, fun _ h => h, id⟩

theorem Evolves.trans {s t u : State} (h : Evolves s t) (g : Evolves t u) : Evolves s u where
  kept := State.kept_trans h.kept g.kept
  responses := g.responses.trans h.responses
  history := by
    obtain ⟨e1, h1⟩ := h.history
    obtain ⟨e2, h2⟩ := g.history
    exact ⟨e1 ++ e2, by rw [h2, h1, List.append_assoc]⟩
  level := fun hl => g.level (h.level hl)
  memories := fun h0 hm => g.memories (by rw [State.kept_cfg h.kept]; exact h0) (h.memories h0 hm)
  quiet := fun hq => g.quiet (h.quiet hq)

/-- A sequence evolves where its parts do. -/
theorem Evolves.bind {α β : Type} {s : State} {r : Res α} {f : α → State → Res β} (h : Evolves s r.final)
    (g : ∀ (a : α) (t : State), r = .ok a t → Evolves t (f a t).final) : Evolves s (r.bind f).final := by
  cases r with
  | ok a t => exact h.trans (g a t rfl)
  | halt w t => exact h

theorem require_evolves (p : Bool) (s : State) : Evolves s (require p s).final := by
  rw [require_eq]; split <;> exact Evolves.refl s

theorem memInv_of_same {s t : State} (hm : t.flash.mem = s.flash.mem) (hc : t.flash.cur.toNat < s.cfg.flashBytes)
    (hk : s.kept t) (h : s.memInv = true) : t.memInv = true := by
  obtain ⟨-, -, -, -, -, -, -, hfb, hpm, hcfg, -⟩ := hk
  simp only [State.memInv, Bool.and_eq_true, decide_eq_true_eq, hm, hfb, hpm, hcfg] at h ⊢
  exact ⟨h.1, hc⟩

theorem memInv_cur {s : State} (h : s.memInv = true) : s.flash.cur.toNat < s.cfg.flashBytes := by
  simp only [State.memInv, Bool.and_eq_true, decide_eq_true_eq] at h
  exact h.2

theorem issued_evolves (b : Byte) (s : State) : Evolves s (s.issued b) where
  kept := by simp [State.kept]
  responses := by simp
  history := ⟨_, State.issued_trace s b⟩
  level := by
    intro hl
    rw [State.issued_trace, traceLevel_append, hl, State.issued_cs]
    cases hc : s.cs
    · simp [traceLevel, answerOf_drawn_of_low b s hc]
    · simp [traceLevel]
  memories := by
    intro h0 hm
    refine memInv_of_same (s := s) (by simp; split <;> simp) ?_ (by simp [State.kept]) hm
    rw [State.issued_flash]
    split
    · exact FlashPart.exchange_cur_lt _ _ _ h0 (memInv_cur hm)
    · exact memInv_cur hm
  quiet := by
    rw [State.issued_cs, State.issued_flash]
    cases hc : s.cs <;> simp

theorem issue_evolves (b : Byte) (s : State) : Evolves s (issue b s).final := by
  rw [issue_eq]
  split
  · exact Evolves.refl s
  · split <;> exact issued_evolves b s

theorem shifted_evolves (s : State) : Evolves s s.shifted where
  kept := by simp [State.kept]
  responses := rfl
  history := ⟨[], by simp⟩
  level := id
  memories := fun _ h => h
  quiet := id

theorem wait_evolves (s : State) : Evolves s (wait s).final := by
  rw [wait_eq]
  repeat' split
  all_goals first | exact Evolves.refl s | exact shifted_evolves s

theorem openBus_evolves (s : State) (h : s.cs = false) : Evolves s s.openBus where
  kept := by simp [State.kept]
  responses := rfl
  history := ⟨_, State.openBus_trace s⟩
  level := by intro hl; simp [traceLevel_append, hl, h, traceLevel]
  memories := fun _ hm => hm
  quiet := by simp

theorem select_evolves (s : State) : Evolves s (select s) := by
  rw [select_eq]
  split
  · exact Evolves.refl s
  · exact openBus_evolves s (by simpa using ‹¬ s.cs = true›)

theorem openCommand_evolves (b : Byte) (s : State) : Evolves s (s.openCommand b) where
  kept := by simp [State.kept]
  responses := rfl
  history := ⟨[], by simp⟩
  level := id
  memories := fun _ h => h
  quiet := id

theorem dropBus_evolves (s : State) (h : s.cs = true) : Evolves s s.dropBus where
  kept := by simp [State.kept]
  responses := rfl
  history := ⟨_, State.dropBus_trace s⟩
  level := by intro hl; simp [traceLevel_append, hl, h, traceLevel]
  memories := by
    intro h0 hm
    have hc := memInv_cur hm
    simp only [State.memInv, Bool.and_eq_true, decide_eq_true_eq] at hm ⊢
    have hd := FlashPart.deselect_keeps s.cfg s.flash h0 hm.1.1.1.1 hm.1.1.1.2
    simp only [State.dropBus_flash, State.dropBus_cfg, State.dropBus_fb, State.dropBus_pm, FlashPart.deselect_cur]
    exact ⟨⟨⟨hd, hm.1.1.2⟩, hm.1.2⟩, hc⟩
  quiet := by simp

theorem closePhase_evolves (s : State) : Evolves s s.closePhase where
  kept := by simp [State.kept]
  responses := rfl
  history := ⟨[], by simp⟩
  level := id
  memories := fun _ h => h
  quiet := id

theorem deselect_evolves (s : State) : Evolves s (deselect s).final := by
  rw [deselect_eq]
  split
  · exact Evolves.refl s
  · split
    · split
      · exact dropBus_evolves s ‹_›
      · exact (dropBus_evolves s ‹_›).trans (closePhase_evolves _)
    · exact Evolves.refl s

theorem xfer_evolves (b : Byte) (s : State) : Evolves s (xfer b s).final :=
  (issue_evolves b s).bind fun _ t _ => (wait_evolves t).bind fun _ u _ => Evolves.refl u

theorem xferTracked_evolves (b : Byte) (s : State) : Evolves s (xferTracked b s).final := by
  unfold xferTracked
  split
  · exact (openCommand_evolves b s).trans (xfer_evolves b _)
  · exact xfer_evolves b s

theorem sendAll_evolves (bytes : List Byte) (s : State) : Evolves s (sendAll bytes s).final := by
  induction bytes generalizing s with
  | nil => exact Evolves.refl s
  | cons b rest ih => exact (xfer_evolves b s).bind fun _ t _ => ih t

theorem sendFrame_evolves (op : Byte) (rest : List Byte) (s : State) : Evolves s (sendFrame op rest s).final :=
  (require_evolves _ s).bind fun _ t _ =>
    ((select_evolves t).trans (xferTracked_evolves op _)).bind fun _ u _ =>
      (sendAll_evolves rest u).bind fun _ v _ => deselect_evolves v

theorem writeCmd_evolves (op : Byte) (s : State) : Evolves s (writeCmd op s).final := by
  rw [writeCmd_eq]; exact sendFrame_evolves op [] s

theorem seek_evolves (op : Byte) (a : Addr) (s : State) : Evolves s (seek op a s).final :=
  (require_evolves _ s).bind fun _ t _ =>
    ((select_evolves t).trans (xferTracked_evolves op _)).bind fun _ u _ => sendAll_evolves _ u

theorem startReading_evolves (s : State) : Evolves s s.startReading where
  kept := by simp [State.kept]
  responses := rfl
  history := ⟨[], by simp⟩
  level := id
  memories := fun _ h => h
  quiet := id

theorem beginRead_evolves (a : Addr) (s : State) : Evolves s (beginRead a s).final :=
  (seek_evolves WireOp.read a s).bind fun _ t _ => (issue_evolves dummyByte t).bind fun _ u _ => startReading_evolves u

theorem readPending_evolves (s : State) : Evolves s (readPending s).final :=
  (require_evolves _ s).bind fun _ t _ => (wait_evolves t).bind fun _ u _ =>
    (issue_evolves dummyByte u).bind fun _ v _ => Evolves.refl v

theorem readLast_evolves (s : State) : Evolves s (readLast s).final :=
  (require_evolves _ s).bind fun _ t _ => (wait_evolves t).bind fun _ u _ =>
    (deselect_evolves u).bind fun _ v _ => Evolves.refl v

theorem eraseBlock_evolves (a : Addr) (s : State) : Evolves s (eraseBlock a s).final :=
  (writeCmd_evolves WireOp.writeEnable s).bind fun _ t _ => (seek_evolves WireOp.erase a t).bind fun _ u _ =>
    deselect_evolves u

theorem writePage_evolves (a : Addr) (data : List Byte) (s : State) : Evolves s (writePage a data s).final :=
  (writeCmd_evolves WireOp.writeEnable s).bind fun _ t _ => (seek_evolves t.cfg.opWrite a t).bind fun _ u _ =>
    (sendAll_evolves data u).bind fun _ v _ => deselect_evolves v

theorem toDataAddress_evolves (o : Addr) (s : State) : Evolves s (toDataAddress o s).final := by
  unfold toDataAddress; split <;> exact Evolves.refl s

theorem toSaveAddress_evolves (o : Addr) (s : State) : Evolves s (toSaveAddress o s).final := by
  unfold toSaveAddress; split <;> exact Evolves.refl s

theorem toSavePage_evolves (p : Page) (s : State) : Evolves s (toSavePage p s).final := by
  unfold toSavePage; split <;> exact Evolves.refl s

theorem seekData_evolves (o : Addr) (s : State) : Evolves s (seekData o s).final :=
  (require_evolves _ s).bind fun _ t _ => (toDataAddress_evolves o t).bind fun a u _ => beginRead_evolves a u

theorem seekSave_evolves (o : Addr) (s : State) : Evolves s (seekSave o s).final :=
  (require_evolves _ s).bind fun _ t _ => (toSaveAddress_evolves o t).bind fun a u _ => beginRead_evolves a u

/-! ## What an operation that ran tells about the state it ran in -/

theorem require_ok {p : Bool} {s t : State} {u : Unit} (h : require p s = .ok u t) : p = true ∧ t = s := by
  rw [require_eq] at h
  split at h
  · cases h; exact ⟨‹_›, rfl⟩
  · cases h

theorem issue_ok {b : Byte} {s t : State} {u : Unit} (h : issue b s = .ok u t) : s.inflight = false ∧ t = s.issued b := by
  rw [issue_eq] at h
  split at h
  · cases h
  · split at h
    · cases h
    · cases h; exact ⟨by simpa using ‹¬ s.inflight = true›, rfl⟩

theorem wait_ok {s t : State} {u : Unit} (h : wait s = .ok u t) :
    t = s.waited ∧ (s.inflight = true → s.cfg.busOk = true) := by
  rw [wait_eq] at h
  unfold State.waited
  split at h
  · split at h
    · cases h; simp_all
    · cases h
  · cases h; simp_all

/-- A transfer that ran was possible, and its state is the one `Xfer` always reaches. -/
theorem xfer_ok {b r : Byte} {s t : State} (h : xfer b s = .ok r t) :
    s.canTransfer = true ∧ t = s.sent b ∧ r = (answerOf b s).1 := by
  unfold xfer at h
  cases hi : issue b s with
  | halt w v => rw [hi] at h; cases h
  | ok a v =>
    obtain ⟨h1, rfl⟩ := issue_ok hi
    rw [hi, Res.bind_ok, wait_eq] at h
    simp only [State.issued_inflight, State.issued_cfg, if_true] at h
    cases hb : s.cfg.busOk
    · simp [hb] at h
    · simp only [hb, if_true, Res.bind_ok, Res.ok.injEq] at h
      exact ⟨by simp [State.canTransfer, hb, h1], h.2.symm, by rw [← h.1]; simp⟩

/-- A deselect that ran found no transfer in flight, and its state is the one `Deselect` always reaches. -/
theorem deselect_ok {s t : State} {u : Unit} (h : deselect s = .ok u t) :
    s.inflight = false ∧ t = if s.cs then s.dropBus.closePhase else s := by
  rw [deselect_eq] at h
  split at h
  · cases h
  · rename_i hi
    refine ⟨by simpa using hi, ?_⟩
    split at h
    · split at h
      · cases h
      · cases h; simp [*]
    · cases h; simp [*]

end Sys2Proof.Machine
end

