-- ==== Sys2Proof/Laws/Blitter.lean ====
section
/-! SUPPORT. The blitter: a column changes the framebuffer alone, and only inside it (`43_blitter.md` R195, R199). -/

namespace Sys2Proof.Machine

/-- The state with another framebuffer. -/
theorem fbWrite_eq (i : Nat) (v : Byte) (s : State) : fbWrite i v s = s.withFb (Mem.write .fb s.fb i v) := rfl

/-- What a framebuffer write does to every read. -/
theorem fbWrite_read (i j : Nat) (v : Byte) (s : State) :
    Mem.read .fb (fbWrite i v s).fb j = if j = i then v else Mem.read .fb s.fb j := by
  rw [fbWrite_eq, State.withFb_fb, Mem.read_write]

/-- Reading, composing and writing one byte, to every read. -/
theorem composeAt_read (mode : Byte) (i j : Nat) (v m : Byte) (s : State) :
    Mem.read .fb (composeAt mode i v m s).fb j =
      if j = i then compose mode v m (Mem.read .fb s.fb i) else Mem.read .fb s.fb j :=
  fbWrite_read i j _ s

/-- A column changes nothing but the framebuffer. -/
theorem composeColumn_same (b : Blit) (mode : Byte) (c : Nat) (v m : Byte) (s : State) :
    composeColumn b mode c v m s = s.withFb (composeColumn b mode c v m s).fb := by
  unfold composeColumn composeAt fbWrite
  dsimp only
  split <;> split <;> rfl

/-- An index in an existing display row and column lies inside the framebuffer (`43_blitter.md` R199, item 1). -/
theorem fbIndex_lt (cfg : Config) (b : Blit) (r : Int) (c : Nat) (hr : rowExists cfg r = true) (h0 : 0 ≤ b.col0)
    (hc : b.col0 + c < cfg.displayW) : fbIndex cfg b r c < cfg.fbBytes := by
  simp only [rowExists, Bool.and_eq_true, decide_eq_true_eq] at hr
  unfold fbIndex Config.fbBytes
  obtain ⟨n, rfl⟩ := Int.eq_ofNat_of_zero_le hr.1
  obtain ⟨k, hk⟩ := Int.eq_ofNat_of_zero_le h0
  rw [hk] at hc ⊢
  have hn : n + 1 ≤ cfg.displayH / 8 := by omega
  have hm : (n + 1) * cfg.displayW ≤ cfg.displayH / 8 * cfg.displayW := Nat.mul_le_mul_right _ hn
  have he : ((n : Int) * (cfg.displayW : Int) + (k : Int) + (c : Int)).toNat = n * cfg.displayW + k + c := by
    have : ((n : Int) * (cfg.displayW : Int) + (k : Int) + (c : Int)) = ((n * cfg.displayW + k + c : Nat) : Int) := by
      push_cast; ring
    rw [this, Int.toNat_natCast]
  have hlt : k + c < cfg.displayW := by omega
  rw [he, Nat.mul_comm cfg.displayW]
  calc n * cfg.displayW + k + c < n * cfg.displayW + cfg.displayW := by omega
    _ = (n + 1) * cfg.displayW := by ring
    _ ≤ _ := hm

/-- A column inside the framebuffer keeps the framebuffer canonical and inside its size. -/
theorem composeColumn_keeps (b : Blit) (mode : Byte) (c : Nat) (v m : Byte) (s : State) (h0 : 0 ≤ b.col0)
    (hc : b.col0 + c < s.cfg.displayW) (hw : Mem.wf .fb s.fb = true) (hb : Mem.below s.fb s.cfg.fbBytes = true) :
    Mem.wf .fb (composeColumn b mode c v m s).fb = true ∧
      Mem.below (composeColumn b mode c v m s).fb s.cfg.fbBytes = true := by
  have step : ∀ (r : Int) (v m : Byte) (t : State), rowExists s.cfg r = true →
      Mem.wf .fb t.fb = true → Mem.below t.fb s.cfg.fbBytes = true →
      Mem.wf .fb (composeAt mode (fbIndex s.cfg b r c) v m t).fb = true ∧
        Mem.below (composeAt mode (fbIndex s.cfg b r c) v m t).fb s.cfg.fbBytes = true := fun r v m t hr htw htb =>
    ⟨Mem.write_wf _ _ htw, Mem.write_below _ _ (fbIndex_lt s.cfg b r c hr h0 hc) htb⟩
  unfold composeColumn
  dsimp only
  split <;> split
  · exact step _ _ _ _ (by simp_all) (step _ _ _ s ‹_› hw hb).1 (step _ _ _ s ‹_› hw hb).2
  · exact step _ _ _ s (by simp_all) hw hb
  · exact step _ _ _ s ‹_› hw hb
  · exact ⟨hw, hb⟩

/-- The columns of a bitmap that is not off-screen lie inside the viewport (`43_blitter.md` R185). -/
theorem geometry_columns (cfg : Config) (x y bw bh : Int) (addr : Addr) (frame : Byte) (masked : Bool) (c : Nat)
    (hc : (c : Int) < (geometry cfg x y bw bh addr frame masked).renderW) :
    0 ≤ (geometry cfg x y bw bh addr frame masked).col0 ∧
      (geometry cfg x y bw bh addr frame masked).col0 + c < cfg.displayW := by
  simp only [geometry] at hc ⊢
  omega

end Sys2Proof.Machine
end

