-- ==== Sys2Proof/Laws/PerInstr.lean ====
section
/-! SUPPORT. Statements for all instructions, one lemma per constructor. `EncodedOpcode`: an instruction is encoded under its
own row of the opcode table, a host command with its OP in bits 79:72 of the command word (`30_encoding.md` R94, R100), a wire
opcode as the first byte of its frame (R91 to R93, R101). -/

namespace Sys2Proof.Laws.EncodedOpcode

open Sys2Proof.Machine

/-- The encoding of `i` carries the opcode of its row of the table, and nothing but the two page writes has a payload (R104). -/
def Statement (i : Instr) : Prop :=
  ∀ cfg : Config,
    match encode cfg.opWrite i with
    | .command w payload => commandOp i = some w.op ∧ (payload = [] ∨ w.op = 0x1F ∨ w.op = 0x25)
    | .frame bytes => commandOp i = none ∧ bytes.head? = firstOpcode cfg i

/-- The OP field of a command word reads back the OP it was made with. -/
theorem op_commandWord (op : Byte) (operands : BitVec 72) : CmdWord.op (commandWord op operands) = op := by
  unfold CmdWord.op commandWord
  ext i hi
  simp only [BitVec.getElem_extractLsb', BitVec.getLsbD_append]
  simp [BitVec.getLsbD_eq_getElem hi]

/-- A host command's row, from its encoding. -/
theorem of_command {i : Instr} (op : Byte) (operands : BitVec 72) (payload : List Byte)
    (encoded : ∀ opw : Byte, encode opw i = .command (commandWord op operands) payload)
    (row : commandOp i = some op) (paged : payload = [] ∨ op = 0x1F ∨ op = 0x25) : Statement i := by
  intro cfg
  rw [encoded]
  simp only [op_commandWord]
  exact ⟨row, paged⟩

theorem select : Statement .select :=
  of_command 0x01 _ _ (fun _ => rfl) rfl (.inl rfl)

theorem deselect : Statement .deselect :=
  of_command 0x02 _ _ (fun _ => rfl) rfl (.inl rfl)

theorem transfer (byte : Byte) : Statement (.transfer byte) :=
  of_command 0x03 _ _ (fun _ => rfl) rfl (.inl rfl)

theorem writecmd (opcode : Byte) : Statement (.writecmd opcode) :=
  of_command 0x10 _ _ (fun _ => rfl) rfl (.inl rfl)

theorem seek (opcode : Byte) (addr : Addr) : Statement (.seek opcode addr) :=
  of_command 0x11 _ _ (fun _ => rfl) rfl (.inl rfl)

theorem beginread (addr : Addr) : Statement (.beginread addr) :=
  of_command 0x12 _ _ (fun _ => rfl) rfl (.inl rfl)

theorem readpending : Statement .readpending :=
  of_command 0x13 _ _ (fun _ => rfl) rfl (.inl rfl)

theorem readlast : Statement .readlast :=
  of_command 0x14 _ _ (fun _ => rfl) rfl (.inl rfl)

theorem readpending16 : Statement .readpending16 :=
  of_command 0x15 _ _ (fun _ => rfl) rfl (.inl rfl)

theorem readpending24 : Statement .readpending24 :=
  of_command 0x16 _ _ (fun _ => rfl) rfl (.inl rfl)

theorem readpending32 : Statement .readpending32 :=
  of_command 0x17 _ _ (fun _ => rfl) rfl (.inl rfl)

theorem readlast16 : Statement .readlast16 :=
  of_command 0x18 _ _ (fun _ => rfl) rfl (.inl rfl)

theorem readlast24 : Statement .readlast24 :=
  of_command 0x19 _ _ (fun _ => rfl) rfl (.inl rfl)

theorem readlast32 : Statement .readlast32 :=
  of_command 0x1A _ _ (fun _ => rfl) rfl (.inl rfl)

theorem writeenable : Statement .writeenable :=
  of_command 0x1B _ _ (fun _ => rfl) rfl (.inl rfl)

theorem wake : Statement .wake :=
  of_command 0x1C _ _ (fun _ => rfl) rfl (.inl rfl)

theorem sleep : Statement .sleep :=
  of_command 0x1D _ _ (fun _ => rfl) rfl (.inl rfl)

theorem eraseblock (addr : Addr) : Statement (.eraseblock addr) :=
  of_command 0x1E _ _ (fun _ => rfl) rfl (.inl rfl)

theorem writepage (addr : Addr) (data : List Byte) : Statement (.writepage addr data) :=
  of_command 0x1F _ _ (fun _ => rfl) rfl (.inr (.inl rfl))

theorem init (d s : Page) : Statement (.init d s) :=
  of_command 0x20 _ _ (fun _ => rfl) rfl (.inl rfl)

theorem seekdata (offset : Addr) : Statement (.seekdata offset) :=
  of_command 0x21 _ _ (fun _ => rfl) rfl (.inl rfl)

theorem seeksave (offset : Addr) : Statement (.seeksave offset) :=
  of_command 0x22 _ _ (fun _ => rfl) rfl (.inl rfl)

theorem seekdataarray (index size : Byte) (extra : Addr) : Statement (.seekdataarray index size extra) :=
  of_command 0x23 _ _ (fun _ => rfl) rfl (.inl rfl)

theorem erasesaveblock (p : Page) : Statement (.erasesaveblock p) :=
  of_command 0x24 _ _ (fun _ => rfl) rfl (.inl rfl)

theorem writesavepage (p : Page) (data : List Byte) : Statement (.writesavepage p data) :=
  of_command 0x25 _ _ (fun _ => rfl) rfl (.inr (.inr rfl))

theorem drawbitmap (x y : Half) (addr : Addr) (frame mode : Byte) : Statement (.drawbitmap x y addr frame mode) :=
  of_command 0x30 _ _ (fun _ => rfl) rfl (.inl rfl)

theorem opReleasePd : Statement .opReleasePd := fun _ => ⟨rfl, rfl⟩

theorem opPowerDown : Statement .opPowerDown := fun _ => ⟨rfl, rfl⟩

theorem opWriteEnable : Statement .opWriteEnable := fun _ => ⟨rfl, rfl⟩

theorem opRead (addr : Addr) (dummies : List Byte) : Statement (.opRead addr dummies) := fun _ => ⟨rfl, rfl⟩

theorem opWrite (addr : Addr) (data : List Byte) : Statement (.opWrite addr data) := fun _ => ⟨rfl, rfl⟩

theorem opErase (addr : Addr) : Statement (.opErase addr) := fun _ => ⟨rfl, rfl⟩

theorem opJedecId (dummies : List Byte) : Statement (.opJedecId dummies) := fun _ => ⟨rfl, rfl⟩

theorem opReadStatus1 (dummies : List Byte) : Statement (.opReadStatus1 dummies) := fun _ => ⟨rfl, rfl⟩

theorem opReadStatus2 (dummies : List Byte) : Statement (.opReadStatus2 dummies) := fun _ => ⟨rfl, rfl⟩

end Sys2Proof.Laws.EncodedOpcode
end

