-- ==== Sys2Proof/Tests/Slice0.lean ====
section
/-! SUPPORT. The author's own tests. Smoke: a term that each check of `Instr.wf` refuses. Decode: for every constructor a word
written from `spec/30_encoding.md` R91 to R93, R95, R100, R101, R105. Steps: one step each, with the results that the vectors
V1 to V84 of `spec/95_test_vectors.md` give. Witnesses: for every statement with hypotheses, values that meet them. -/

namespace Sys2Proof.Tests

open Sys2Proof Sys2Proof.Machine

set_option maxRecDepth 20000

/-! ## WellFormed -/

theorem test_wf_refuses_short_page : (Instr.writepage 0 []).wf = false := by decide
theorem test_wf_refuses_long_page : (Instr.writepage 0 (List.replicate 257 0)).wf = false := by decide
theorem test_wf_refuses_short_save_page : (Instr.writesavepage 0 [1]).wf = false := by decide
theorem test_wf_refuses_short_wire_page : (Instr.opWrite 0 (List.replicate 255 0)).wf = false := by decide
theorem test_wf_refuses_read_without_data : (Instr.opRead 0 []).wf = false := by decide
theorem test_wf_refuses_read_with_other_dummy : (Instr.opRead 0 [0, 1]).wf = false := by decide
theorem test_wf_refuses_id_with_other_dummy : (Instr.opJedecId [0xFF]).wf = false := by decide
theorem test_wf_refuses_status1_with_other_dummy : (Instr.opReadStatus1 [0x80]).wf = false := by decide
theorem test_wf_refuses_status2_with_other_dummy : (Instr.opReadStatus2 [0, 0, 2]).wf = false := by decide
theorem test_wf_accepts_page : (Instr.writepage 0xFFFFFF (List.replicate 256 0xA5)).wf = true := by decide

/-! ## Decode: command words of R105 -/

theorem test_decode_select : decodeTableWord 80 0x01000000000000000000 = some .select := by decide
theorem test_decode_deselect : decodeTableWord 80 0x02000000000000000000 = some .deselect := by decide
theorem test_decode_transfer : decodeTableWord 80 0x0300000000000000009F = some (.transfer 0x9F) := by decide
theorem test_decode_writecmd : decodeTableWord 80 0x10000000000000000006 = some (.writecmd 0x06) := by decide
theorem test_decode_seek : decodeTableWord 80 0x11000000000003012345 = some (.seek 0x03 0x012345) := by decide
theorem test_decode_beginread : decodeTableWord 80 0x12000000000000012345 = some (.beginread 0x012345) := by decide
theorem test_decode_readpending : decodeTableWord 80 0x13000000000000000000 = some .readpending := by decide
theorem test_decode_readlast : decodeTableWord 80 0x14000000000000000000 = some .readlast := by decide
theorem test_decode_readpending16 : decodeTableWord 80 0x15000000000000000000 = some .readpending16 := by decide
theorem test_decode_readpending24 : decodeTableWord 80 0x16000000000000000000 = some .readpending24 := by decide
theorem test_decode_readpending32 : decodeTableWord 80 0x17000000000000000000 = some .readpending32 := by decide
theorem test_decode_readlast16 : decodeTableWord 80 0x18000000000000000000 = some .readlast16 := by decide
theorem test_decode_readlast24 : decodeTableWord 80 0x19000000000000000000 = some .readlast24 := by decide
theorem test_decode_readlast32 : decodeTableWord 80 0x1A000000000000000000 = some .readlast32 := by decide
theorem test_decode_writeenable : decodeTableWord 80 0x1B000000000000000000 = some .writeenable := by decide
theorem test_decode_wake : decodeTableWord 80 0x1C000000000000000000 = some .wake := by decide
theorem test_decode_sleep : decodeTableWord 80 0x1D000000000000000000 = some .sleep := by decide
theorem test_decode_eraseblock : decodeTableWord 80 0x1E000000000000FFF000 = some (.eraseblock 0xFFF000) := by decide
theorem test_decode_writepage :
    decodeTableWord 80 0x1F000000000000FFF000 = some (.writepage 0xFFF000 (List.replicate 256 0)) := by decide
theorem test_decode_init : decodeTableWord 80 0x2000000000000100FFF0 = some (.init 0x0100 0xFFF0) := by decide
theorem test_decode_seekdata : decodeTableWord 80 0x21000000000000000010 = some (.seekdata 0x000010) := by decide
theorem test_decode_seeksave : decodeTableWord 80 0x22000000000000000100 = some (.seeksave 0x000100) := by decide
theorem test_decode_seekdataarray :
    decodeTableWord 80 0x23000000000305000010 = some (.seekdataarray 3 5 0x000010) := by decide
theorem test_decode_erasesaveblock : decodeTableWord 80 0x24000000000000000010 = some (.erasesaveblock 0x0010) := by decide
theorem test_decode_writesavepage :
    decode WireOp.write (.command 0x25000000000000000001 (List.replicate 256 0xA5)) =
      .ok (.writesavepage 0x0001 (List.replicate 256 0xA5)) := by decide
theorem test_decode_drawbitmap :
    decodeTableWord 80 0x30FFFF00030002000110 = some (.drawbitmap 0xFFFF 0x0003 0x000200 0x01 0x10) := by decide
theorem test_decode_ignores_unused_bits : decodeTableWord 80 0x01FFFFFFFFFFFFFFFFFF = some .select := by decide
theorem test_decode_reserved_low : decodeTableWord 80 0x04000000000000000000 = none := by decide
theorem test_decode_reserved_high : decodeTableWord 80 0x31000000000000000000 = none := by decide
theorem test_decode_missing_payload :
    decode WireOp.write (.command 0x1F000000000000FFF000 [1]) = .error (.payloadLength 0x1F 1) := by decide

/-! ## Decode: wire frames of R91 to R93 -/

theorem test_decode_opReleasePd : decodeTableWord 8 0xAB = some .opReleasePd := by decide
theorem test_decode_opPowerDown : decodeTableWord 8 0xB9 = some .opPowerDown := by decide
theorem test_decode_opWriteEnable : decodeTableWord 8 0x06 = some .opWriteEnable := by decide
theorem test_decode_opRead :
    decode WireOp.write (.frame [0x03, 0x01, 0x23, 0x45, 0x00, 0x00]) = .ok (.opRead 0x012345 [0, 0]) := by decide
theorem test_decode_opWrite :
    decode WireOp.write (.frame ([0x04, 0xFF, 0xF1, 0x00] ++ List.replicate 256 0xA5)) =
      .ok (.opWrite 0xFFF100 (List.replicate 256 0xA5)) := by decide
theorem test_decode_opErase : decode WireOp.write (.frame [0x20, 0xFF, 0xF0, 0x00]) = .ok (.opErase 0xFFF000) := by decide
theorem test_decode_opJedecId : decodeTableWord 8 0x9F = some (.opJedecId [0, 0, 0]) := by decide
theorem test_decode_opReadStatus1 : decodeTableWord 8 0x05 = some (.opReadStatus1 [0]) := by decide
theorem test_decode_opReadStatus2 : decodeTableWord 8 0x35 = some (.opReadStatus2 [0]) := by decide
theorem test_decode_unknown_frame : decode WireOp.write (.frame [0x77]) = .error (.unknownWireOpcode 0x77) := by decide

/-! ## Helpers for one step -/

/-- Look at one thing of the next state. -/
def next {α : Type} (o : Host.Outcome State Fault Refusal) (look : State → α) : Option α :=
  match o with
  | .next s => some (look s)
  | _ => none

/-- The engine just reset, with these flash bytes, the part awake. -/
def withArray (cells : Mem) : State := { State.reset with flash := { FlashPart.reset with mem := cells } }

/-- "Initialised" (`95_test_vectors.md`, conventions). -/
def initialised (cells : Mem) : State :=
  { withArray cells with inited := true, dataPage := 0x0100, savePage := 0xFFF0 }

/-- In a pipelined read: the byte `out` outstanding, the part's cursor at `at`. -/
def inRead (out : Byte) (cursor : Addr) (cells : Mem) : State :=
  { withArray cells with
    cs := true
    inflight := true
    pending := out
    pstate := .reading
    cmdop := 0x03
    trace := [.sel, .xfer 0x03 0 true, .xfer 0 0 true, .xfer 0 0 true, .xfer 0 0 true, .xfer 0 out false]
    flash := { FlashPart.reset with mem := cells, n := 5, op := 0x03, cur := cursor } }

/-- After `SELECT`. -/
def selected : State := { State.reset with cs := true, pstate := .selected, trace := [.sel] }

/-- After `SELECT; TRANSFER op`. -/
def opened (op : Byte) : State :=
  { selected with
    pstate := .cmdOpen, cmdop := op, trace := [.sel, .xfer op 0 true]
    flash := { FlashPart.reset with n := 1, op := op } }

/-- A part that enforces its contracts, asleep or awake. -/
def strictPart (asleep : Bool) (cells : Mem) : State :=
  { State.reset with
    cfg := { Config.default with strict := true }
    flash := { FlashPart.reset with mem := cells, pd := asleep } }

/-- The phase, CMDOP, WE. -/
def engine (s : State) : PState × Byte × Bool := (s.pstate, s.cmdop, s.we)

/-- Four frame bytes as they are seen. -/
def head (op a2 a1 a0 : Byte) : List Event := [.xfer op 0 true, .xfer a2 0 true, .xfer a1 0 true, .xfer a0 0 true]

/-- The record TWO of `95_test_vectors.md`, at data offset 0x000300. -/
def two : Mem := [(0x010300, 0x00), (0x010301, 0x02), (0x010302, 0x00), (0x010303, 0x08), (0x010304, 0x0F), (0x010305, 0xA5)]

/-- Framebuffer bytes 0, 1, 128, 129. -/
def corner (s : State) : List Byte := [0, 1, 128, 129].map (Mem.read .fb s.fb)

/-! ## One step each (`95_test_vectors.md`) -/

theorem test_V1_select : next (exec .select State.reset) (fun s => (s.cs, engine s, s.wire)) =
    some (true, (.selected, 0, false), [.sel]) := by decide
theorem test_V4_deselect : next (exec .deselect (opened 0x06)) (fun s => (s.cs, engine s, s.flash.wel, s.wire)) =
    some (false, (.idle, 0x06, true), true, [.sel, .xfer 0x06 0 true, .desel]) := by decide
theorem test_V8_deselect_in_reading : next (exec .deselect (inRead 0x7E 1 [])) (fun s => (s.fault, s.cs, s.inflight)) =
    some (some (.protocolMisuse (.command 0x02) .reading), true, true) := by decide
theorem test_V4_transfer : next (exec (.transfer 0x06) selected) (fun s => (s.cs, engine s, s.flash.op, s.wire)) =
    some (true, (.cmdOpen, 0x06, false), 0x06, [.sel, .xfer 0x06 0 true]) := by decide
theorem test_V5_transfer_deselected : next (exec (.transfer 0x55) State.reset) (fun s => (s.cs, s.flash.n, s.wire)) =
    some (false, 0, [.xfer 0x55 0 true]) := by decide
theorem test_V10_writecmd : next (exec (.writecmd 0xB9) State.reset) (fun s => (engine s, s.flash.pd, s.wire)) =
    some ((.idle, 0xB9, false), true, [.sel, .xfer 0xB9 0 true, .desel]) := by decide
theorem test_V12_writecmd_selected : next (exec (.writecmd 0xAB) selected) (fun s => s.wire) =
    some [.sel, .xfer 0xAB 0 true, .desel] := by decide
theorem test_V13_seek : next (exec (.seek 0x20 0xFFF000) State.reset) (fun s => (engine s, s.inflight, s.flash.cur, s.wire)) =
    some ((.cmdOpen, 0x20, false), false, 0xFFF000, .sel :: head 0x20 0xFF 0xF0 0x00) := by decide
theorem test_V14_beginread :
    next (exec (.beginread 0x012345) (withArray [(0x012345, 0x7E)])) (fun s => (engine s, s.inflight, s.pending, s.flash.cur, s.wire)) =
      some ((.reading, 0x03, false), true, 0x7E, 0x012346,
        .sel :: head 0x03 0x01 0x23 0x45 ++ [.xfer 0x00 0x7E false]) := by decide
theorem test_V14_readpending :
    next (exec .readpending (inRead 0x7E 0x012346 [(0x012346, 0x11)])) (fun s => (s.responses, s.inflight, s.pending, s.flash.cur)) =
      some ([0x7E], true, 0x11, 0x012347) := by decide
theorem test_V22_readpending_idle : next (exec .readpending State.reset) (fun s => (s.fault, s.wire)) =
    some (some (.protocolMisuse (.command 0x13) .idle), []) := by decide
theorem test_V14_readlast : next (exec .readlast (inRead 0x22 0x012348 [])) (fun s => (s.responses, s.closed, s.wire.getLast?)) =
    some ([0x22], true, some .desel) := by decide
theorem test_V16_readpending16 :
    next (exec .readpending16 (inRead 0x00 0x000101 [(0x000101, 0x08), (0x000102, 0x01)])) (fun s => (s.responses, s.pending)) =
      some ([0x00000008], 0x01) := by decide
theorem test_V16_readpending24 :
    next (exec .readpending24 (inRead 0x01 0x000103 [(0x000103, 0x23), (0x000104, 0x45), (0x000105, 0xDE)]))
      (fun s => (s.responses, s.pending)) = some ([0x00012345], 0xDE) := by decide
theorem test_V16_readpending32 :
    next (exec .readpending32 (inRead 0xDE 0x000106 [(0x000106, 0xAD), (0x000107, 0xBE), (0x000108, 0xEF), (0x000109, 0x12)]))
      (fun s => (s.responses, s.pending)) = some ([0xDEADBEEF], 0x12) := by decide
theorem test_V17_readlast16_wraps :
    next (exec .readlast16 (inRead 0xC3 0x000000 [(0x000000, 0x3C)])) (fun s => (s.responses, s.closed, s.flash.cur)) =
      some ([0xC33C], true, 0x000001) := by decide
theorem test_V16_readlast24 :
    next (exec .readlast24 (inRead 0x12 0x00010A [(0x00010A, 0x34), (0x00010B, 0x56)])) (fun s => (s.responses, s.closed)) =
      some ([0x00123456], true) := by decide
theorem test_V16b_readlast32 :
    next (exec .readlast32 (inRead 0x12 0x00010A [(0x00010A, 0x34), (0x00010B, 0x56), (0x00010C, 0x9A)]))
      (fun s => (s.responses, s.closed)) = some ([0x1234569A], true) := by decide
theorem test_V11_writeenable : next (exec .writeenable State.reset) (fun s => (engine s, s.flash.wel)) =
    some ((.idle, 0x06, true), true) := by decide
theorem test_V11_wake :
    next (exec .wake { State.reset with flash := { FlashPart.reset with pd := true } }) (fun s => (engine s, s.flash.pd)) =
      some ((.idle, 0xAB, false), false) := by decide
theorem test_V11_sleep : next (exec .sleep State.reset) (fun s => (engine s, s.flash.pd)) =
    some ((.idle, 0xB9, false), true) := by decide
theorem test_V26_eraseblock :
    next (exec (.eraseblock 0xFFF100)
        (withArray [(0x000000, 0x9A), (0xFFEFFF, 0x00), (0xFFF000, 0x12), (0xFFF0FF, 0x34), (0xFFF100, 0x56), (0xFFFFFF, 0x78)]))
      (fun s => (s.flash.mem, s.we, s.flash.wel, s.wire)) =
      some ([(0x000000, 0x9A), (0xFFEFFF, 0x00)], false, false,
        [.sel, .xfer 0x06 0 true, .desel, .sel] ++ head 0x20 0xFF 0xF1 0x00 ++ [.desel]) := by decide
/-- V20 with its payload cut after two bytes, which keeps the test small. -/
theorem test_V20_writepage_ands :
    next (exec (.writepage 0xFFF000 [0x3C, 0x3C]) (withArray [(0xFFF000, 0xF0)])) (fun s => (s.flash.mem, s.we, s.flash.wel, s.wire)) =
      some ([(0xFFF000, 0x30), (0xFFF001, 0x3C)], false, false,
        [.sel, .xfer 0x06 0 true, .desel, .sel] ++ head 0x04 0xFF 0xF0 0x00 ++
          [.xfer 0x3C 0 true, .xfer 0x3C 0 true, .desel]) := by decide
theorem test_V30b_init :
    next (exec (.init 0x0000 0xFFF0)
        { State.reset with pm := [(0x14, 0x18), (0x15, 0x95), (0x16, 0x12), (0x17, 0x34), (0x1A, 0xAB), (0x1B, 0xCD)] })
      (fun s => (s.dataPage, s.savePage, s.inited, s.wire)) = some (0x1234, 0xFFF0, true, []) := by decide
theorem test_V31_init_again : next (exec (.init 0x0001 0x0002) (initialised [])) (fun s => (s.dataPage, s.savePage, s.refused)) =
    some (0x0100, 0xFFF0, some .secondInit) := by decide
theorem test_V35_seekdata :
    next (exec (.seekdata 0x000010) (initialised [(0x010010, 0x42)])) (fun s => (s.pstate, s.pending, s.wire)) =
      some (.reading, 0x42, .sel :: head 0x03 0x01 0x00 0x10 ++ [.xfer 0x00 0x42 false]) := by decide
theorem test_V38_seekdata_wraps :
    next (exec (.seekdata 0x0001FF) { initialised [(0x0000FF, 0x66)] with dataPage := 0xFFFF }) (fun s => s.pending) =
      some 0x66 := by decide
theorem test_V36_seeksave : next (exec (.seeksave 0x000100) (initialised [(0xFFF100, 0x99)])) (fun s => (s.pstate, s.pending)) =
    some (.reading, 0x99) := by decide
theorem test_V41b_seeksave_before_init : next (exec (.seeksave 0) State.reset) (fun s => (s.fault, s.wire)) =
    some (some (.uninitialisedPage .save), []) := by decide
theorem test_V37_seekdataarray_size0 :
    next (exec (.seekdataarray 3 0 0x000010) (initialised [(0x010310, 0x77)])) (fun s => s.pending) = some 0x77 := by decide
theorem test_V37_seekdataarray_size5 :
    next (exec (.seekdataarray 3 5 0x000010) (initialised [(0x01001F, 0x88)])) (fun s => s.pending) = some 0x88 := by decide
theorem test_V39_erasesaveblock :
    next (exec (.erasesaveblock 0) (initialised [(0xFFEFFF, 0), (0xFFF000, 0), (0xFFFFFF, 0)])) (fun s => (s.flash.mem, s.wire)) =
      some ([(0xFFEFFF, 0)], [.sel, .xfer 0x06 0 true, .desel, .sel] ++ head 0x20 0xFF 0xF0 0x00 ++ [.desel]) := by decide
/-- V40 with its payload cut after two bytes, which keeps the test small. -/
theorem test_V40_writesavepage :
    next (exec (.writesavepage 1 [0xA5, 0xA5]) (initialised [])) (fun s => (s.flash.mem, s.we)) =
      some ([(0xFFF100, 0xA5), (0xFFF101, 0xA5)], false) := by decide
theorem test_V51_drawbitmap_off_screen :
    next (exec (.drawbitmap 0x0080 0 0x000300 0 0) (initialised two)) (fun s => (s.fb, s.closed, s.wire)) =
      some ([], true, .sel :: head 0x03 0x01 0x03 0x00 ++
        [.xfer 0 0x00 false, .xfer 0 0x02 false, .xfer 0 0x00 false, .xfer 0 0x08 false, .desel]) := by decide
theorem test_V62_drawbitmap_invert :
    next (exec (.drawbitmap 0 0 0x000300 0 0x02) { initialised two with fb := [(0, 0x55), (1, 0x55)] })
      (fun s => (corner s, s.closed, s.blit)) = some ([0x5A, 0xF0, 0x00, 0x00], true, none) := by decide
theorem test_wire_release :
    next (exec .opReleasePd { State.reset with flash := { FlashPart.reset with pd := true } }) (fun s => (s.flash.pd, s.responses)) =
      some (false, []) := by decide
theorem test_wire_power_down : next (exec .opPowerDown State.reset) (fun s => (s.flash.pd, s.wire)) =
    some (true, [.sel, .xfer 0xB9 0 true, .desel]) := by decide
theorem test_wire_write_enable : next (exec .opWriteEnable State.reset) (fun s => (s.we, s.flash.wel)) = some (true, true) := by
  decide
theorem test_wire_read_wraps :
    next (exec (.opRead 0xFFFFFF [0, 0]) (withArray [(0x000000, 0x3C), (0xFFFFFF, 0xC3)])) (fun s => (s.flash.cur, s.wire)) =
      some (0x000001, .sel :: head 0x03 0xFF 0xFF 0xFF ++ [.xfer 0 0xC3 false, .xfer 0 0x3C false, .desel]) := by decide
theorem test_V21_wire_write_without_latch :
    next (exec (.opWrite 0x001000 [0x00]) State.reset) (fun s => (s.flash.mem, s.closed)) = some ([], true) := by decide
theorem test_wire_write_wraps_in_page :
    next (exec (.opWrite 0x0010FF [0x11, 0x22]) { State.reset with flash := { FlashPart.reset with wel := true } })
      (fun s => (s.flash.mem, s.flash.wel)) = some ([(0x001000, 0x22), (0x0010FF, 0x11)], false) := by decide
theorem test_wire_erase :
    next (exec (.opErase 0x000001) { withArray [(0x000FFF, 0), (0x001000, 0)] with
        flash := { FlashPart.reset with mem := [(0x000FFF, 0), (0x001000, 0)], wel := true } })
      (fun s => (s.flash.mem, s.flash.wel)) = some ([(0x001000, 0)], false) := by decide
theorem test_R149_wire_id : next (exec (.opJedecId [0, 0, 0]) State.reset) (fun s => s.wire) =
    some (.sel :: head 0x9F 0 0 0 ++ [.desel]) := by decide
theorem test_R150_wire_status1 : next (exec (.opReadStatus1 [0]) State.reset) (fun s => s.wire) =
    some [.sel, .xfer 0x05 0 true, .xfer 0 0 true, .desel] := by decide
theorem test_R150_wire_status2 : next (exec (.opReadStatus2 [0]) State.reset) (fun s => s.wire) =
    some [.sel, .xfer 0x35 0 true, .xfer 0 0 true, .desel] := by decide
theorem test_V80_reserved_refused : next (step (State.reset.withFetchWord 80 0)) (fun s => (s.refused, s.wire)) =
    some (some (.reservedCommand 0x00), []) := by decide
/-- R250 with R35 and D17: a reset after WRITEENABLE leaves the part's latch clear. -/
theorem test_R250_reset_clears_latch :
    next (step { State.reset with we := true, flash := { FlashPart.reset with wel := true }, host := [.reset] })
      (fun s => (s.we, s.flash.wel)) = some (false, false) := by decide
theorem test_R142_wake_strict_part : next (exec .wake (strictPart true [])) (fun s => (s.flash.pd, s.fault)) =
    some (false, none) := by decide
theorem test_V83_hang :
    next (exec (.transfer 0x00) { selected with cfg := { Config.default with busOk := false } })
      (fun s => (s.stuck, s.inflight, s.cs, s.wire, s.responses)) =
      some (true, true, true, [.sel, .xfer 0x00 0 true], []) := by decide

/-! ## Witnesses: values that meet the hypotheses of each statement, for each clause of a statement that has several -/

/-- A state that holds a verdict, with no move pending. -/
def marked (f : Option Fault) (r : Option Refusal) (hang : Bool) : State :=
  { State.reset with fault := f, refused := r, stuck := hang }

/-- A part that enforces its contracts, in a write frame at address 0 with one payload byte, its latch set. -/
def inStrictWrite (cells : Mem) : State :=
  { opened 0x04 with
    cfg := { Config.default with strict := true }
    flash := { FlashPart.reset with mem := cells, n := 5, op := 0x04, buf := [0x00], wel := true } }

/-- The same machine on a bus whose transfers never complete. -/
def onBrokenBus (s : State) : State := { s with cfg := { s.cfg with busOk := false } }

theorem witness_DecodeInvertsEncode : WireOp.write ∉ WireOp.others ∧ (Instr.opRead 0xFFFFFF [0]).wf = true ∧
    (Instr.writesavepage 0xFFFF (List.replicate 256 0xFF)).wf = true := by decide
theorem witness_UnusedOperandBitsIgnored :
    (CmdWord.op 0x03AA000000000000009F = CmdWord.op 0x0300000000000000009F ∧
      (0x03AA000000000000009F : CmdWord) &&& usedBits 0x03 = 0x0300000000000000009F &&& usedBits 0x03) ∧
    (0xF0 : Byte) &&& 0x1F = 0x10 &&& 0x1F := by decide
theorem witness_ReservedCommandRefused :
    definedOps.contains (CmdWord.op 0xFF000000000000000000) = false ∧ definedOps.contains (CmdWord.op 0) = false ∧
    (State.reset.giveNext (.command 0 [])).stopped = none ∧
    (State.reset.giveNext (.command 0 [])).host = .give (.command 0 []) :: [] := by decide
theorem witness_StepRunsDecodedInstruction :
    (State.reset.giveNext (.frame [0xAB])).stopped = none ∧
    (State.reset.giveNext (.frame [0xAB])).host = .give (.frame [0xAB]) :: [] ∧
    decode State.reset.cfg.opWrite (.frame [0xAB]) = .ok .opReleasePd := by decide
theorem witness_MarkedMachineStops :
    (∀ rest, (marked (some .busHang) none false).host ≠ .reset :: rest) ∧
    (marked none none true).stuck = true ∧
    ((marked (some .busHang) none false).stuck = false ∧ (marked (some .busHang) none false).fault = some .busHang) ∧
    ((marked none (some .secondInit) false).stuck = false ∧ (marked none (some .secondInit) false).fault = none ∧
      (marked none (some .secondInit) false).refused = some .secondInit) :=
  ⟨fun _ h => (by cases h), by decide⟩
theorem witness_ResetEventRestarts :
    (selected.withHost [.reset, .wait]).host = .reset :: [.wait] ∧ selected.cs = true ∧ State.reset.cs = false := by decide
theorem witness_IdleTurnCompletesTransfer :
    (inRead 1 1 []).stopped = none ∧ ((inRead 1 1 []).inflight = true ∧ (inRead 1 1 []).cfg.busOk = true) ∧
    (inRead 1 1 []).host = [] ∧ ((inRead 1 1 []).withHost [.wait]).host = .wait :: [] ∧
    State.reset.stopped = none ∧ State.reset.inflight = false ∧ State.reset.host = [] ∧
    (State.reset.withHost [.wait]).host = .wait :: [] ∧
    ((onBrokenBus (inRead 1 1 [])).stopped = none ∧ (onBrokenBus (inRead 1 1 [])).inflight = true ∧
      (onBrokenBus (inRead 1 1 [])).cfg.busOk = false ∧ (onBrokenBus (inRead 1 1 [])).host = []) := by decide
theorem witness_HostWritesFramebuffer :
    State.reset.stopped = none ∧ (State.reset.withHost [.fbWrite 1023 7]).host = .fbWrite 1023 7 :: [] ∧
    1023 < State.reset.cfg.fbBytes ∧ (State.reset.withHost [.fbWrite 1024 7]).host = .fbWrite 1024 7 :: [] ∧
    State.reset.cfg.fbBytes ≤ 1024 := by decide
theorem witness_StepKeepsInvariant :
    (inRead 0x7E 0x012346 []).inv = true ∧ ∃ t, step ((inRead 0x7E 0x012346 []).giveNext (.command 0x14000000000000000000 [])) =
      .next t ∧ ((inRead 0x7E 0x012346 []).giveNext (.command 0x14000000000000000000 [])).inv = true :=
  ⟨by decide, _, rfl, by decide⟩
theorem witness_PagesConstantAfterInit :
    (∃ t, exec .readlast { inRead 0 1 [] with inited := true } = .next t) ∧
    ({ inRead 0 1 [] with inited := true } : State).inited = true ∧ resolvesPages .readlast = false :=
  ⟨⟨_, rfl⟩, by decide⟩
theorem witness_OnlyDrawbitmapTouchesFramebuffer :
    (∃ t, exec .wake State.reset = .next t) ∧ drawsBitmap .wake = false :=
  ⟨⟨_, rfl⟩, by decide⟩
theorem witness_OnlyClosingFramesChangesFlash :
    (inRead 1 1 []).inv = true ∧ (inRead 1 1 []).clear = true ∧ mayChangeArray .readlast = false ∧
      ∃ t, exec .readlast (inRead 1 1 []) = .next t :=
  ⟨by decide, by decide, by decide, _, rfl⟩
theorem witness_SelectOpensBus : State.reset.cs = false ∧ selected.cs = true := by decide
theorem witness_DeselectClosesFrame :
    (inRead 1 1 []).pstate = .reading ∧
    ({ selected with inflight := true } : State).pstate ≠ .reading ∧ ({ selected with inflight := true } : State).inflight = true ∧
    (State.reset.pstate ≠ .reading ∧ State.reset.inflight = false ∧ State.reset.cs = false) ∧
    ((opened 0x20).pstate ≠ .reading ∧ (opened 0x20).inflight = false ∧ (opened 0x20).cs = true ∧
      ¬ (opened 0x20).flash.breaksErasure (opened 0x20).cfg) ∧
    ((inStrictWrite []).pstate ≠ .reading ∧ (inStrictWrite []).inflight = false ∧ (inStrictWrite []).cs = true ∧
      ¬ (inStrictWrite []).flash.breaksErasure (inStrictWrite []).cfg) ∧
    ((inStrictWrite [(0, 0)]).pstate ≠ .reading ∧ (inStrictWrite [(0, 0)]).inflight = false ∧ (inStrictWrite [(0, 0)]).cs = true ∧
      (inStrictWrite [(0, 0)]).flash.breaksErasure (inStrictWrite [(0, 0)]).cfg) := by
  refine ⟨by decide, by decide, by decide, by decide, ⟨by decide, by decide, by decide, fun h => by cases h.1⟩,
    ⟨by decide, by decide, by decide, ?_⟩, by decide, by decide, by decide, rfl, rfl, rfl, rfl, rfl, by decide, 0, by decide, ?_⟩
  · rintro ⟨-, -, -, -, -, -, k, hk, h | ⟨j, hj, -, -⟩⟩
    · exact h rfl
    · have : k < 1 := hk
      omega
  · exact .inl (by decide)
theorem witness_TransferExchangesByte :
    (inRead 1 1 []).pstate = .reading ∧
    (selected.pstate ≠ .reading ∧ selected.canTransfer = true ∧ selected.cfg.strict = false ∧ selected.cs = true ∧
      selected.pstate = .selected) ∧
    (State.reset.pstate ≠ .reading ∧ State.reset.canTransfer = true ∧ State.reset.flash.pd = false ∧ State.reset.cs = false) ∧
    ((opened 0x03).canTransfer = true ∧ 1 ≤ (opened 0x03).flash.n ∧ (opened 0x03).pstate = .cmdOpen) ∧
    ((select (strictPart true [])).canTransfer = true ∧ (select (strictPart true [])).pstate = .selected ∧
      hasAddress (select (strictPart true [])).cfg 0xAB = false) := by decide
theorem witness_WritecmdSendsOneByteFrame :
    State.reset.canBeginFrame 0x03 = true ∧ selected.canBeginFrame 0xB9 = true ∧
    (strictPart true []).canBeginFrame 0xAB = true ∧ canOpen (opened 0x03).pstate = false ∧
    canOpen (inRead 1 1 []).pstate = false := by decide
theorem witness_PowerAndLatchCommands :
    (State.reset.cfg.wf = true ∧ selected.canBeginFrame WireOp.writeEnable = true ∧ selected.flash.bad = false ∧
      selected.flash.pd = false) ∧
    ((strictPart true []).cfg.wf = true ∧ (strictPart true []).canBeginFrame WireOp.releasePd = true ∧
      (strictPart true []).flash.bad = false ∧ (strictPart true []).flash.pd = true) ∧
    selected.canBeginFrame WireOp.powerDown = true ∧ canOpen (opened 0x03).pstate = false := by decide
theorem witness_SeekOpensFrame :
    State.reset.canBeginFrame WireOp.write = true ∧ State.reset.flash.bad = false ∧ State.reset.flash.pd = false ∧
    State.reset.cfg.opWrite = WireOp.write ∧ (strictPart true []).canBeginFrame 0x77 = true ∧ canOpen (inRead 1 1 []).pstate = false := by decide
theorem witness_BeginreadOpensRead :
    selected.canBegin = true ∧ selected.cfg.wf = true ∧ selected.flash.bad = false ∧ selected.flash.pd = false ∧
    canOpen (opened 0x03).pstate = false := by decide
theorem witness_ReadpendingHarvestsByte :
    ((inRead 1 0xFFFFFF []).canHarvest = true ∧ (inRead 1 0xFFFFFF []).cfg.wf = true ∧
      (inRead 1 0xFFFFFF []).flash.bad = false ∧ (inRead 1 0xFFFFFF []).flash.ign = false ∧
      (inRead 1 0xFFFFFF []).flash.op = WireOp.read ∧ 4 ≤ (inRead 1 0xFFFFFF []).flash.n) ∧
    State.reset.pstate ≠ .reading := by decide
theorem witness_ReadlastEndsRead :
    ((inRead 1 1 []).canHarvest = true ∧ (inRead 1 1 []).cfg.wf = true ∧ (inRead 1 1 []).cmdop = WireOp.read) ∧
    selected.pstate ≠ .reading := by decide
theorem witness_CompositePendingReads : (inRead 1 1 []).canHarvest = true ∧ (opened 0x03).pstate ≠ .reading := by decide
theorem witness_CompositeLastReads : (inRead 1 1 []).canHarvest = true ∧ State.reset.pstate ≠ .reading := by decide
theorem witness_PipelinedReadLaw :
    selected.cfg.wf = true ∧ selected.clear = true ∧ selected.canBegin = true ∧ selected.flash.pd = false ∧
    selected.flash.bad = false := by decide
theorem witness_IdleTimeInvisibleInRead :
    harvests .readlast32 = true ∧ (inRead 1 1 []).pstate = .reading ∧ (inRead 1 1 []).inflight = true ∧
    (inRead 1 1 []).cfg.busOk = true := by decide
theorem witness_EraseblockErasesBlock :
    State.reset.canBegin = true ∧ State.reset.flash.bad = false ∧ State.reset.flash.pd = false ∧
    (blockBase State.reset.cfg 0xFFFFFF ≤ 0xFFF000 ∧
      0xFFFFFF < blockBase State.reset.cfg 0xFFFFFF + State.reset.cfg.eraseBlockBytes) ∧
    canOpen (opened 0x03).pstate = false := by decide
theorem witness_WritepageSendsTwoFrames :
    ((List.replicate 256 (0xFF : Byte)).length = pageBytes ∧ selected.canBegin = true ∧ selected.cfg.strict = false ∧
      canOpen (inRead 1 1 []).pstate = false) ∧
    ((strictPart false []).canBegin = true ∧ (strictPart false []).cfg.strict = true) ∧
    ¬ meetsUnerased (strictPart false []).cfg (strictPart false []).flash.mem 0 (List.replicate 256 0xFF) := by
  refine ⟨by decide, by decide, ?_⟩
  rintro ⟨k, hk, h | ⟨j, hj, -, hd⟩⟩
  · exact h rfl
  · have hl : j < 256 := by
      rw [List.length_replicate] at hk
      omega
    rw [List.getD_replicate _ hl] at hd
    exact hd rfl
theorem witness_WritepageProgramsPage :
    (selected.cfg.wf = true ∧ 256 ≤ selected.cfg.flashBytes ∧ selected.canBegin = true ∧ selected.flash.bad = false ∧
      selected.flash.pd = false ∧ (List.replicate 256 (0 : Byte)).length = pageBytes ∧ selected.cfg.strict = false) ∧
    ((strictPart false []).cfg.wf = true ∧ 256 ≤ (strictPart false []).cfg.flashBytes ∧ (strictPart false []).canBegin = true ∧
      (strictPart false []).flash.bad = false ∧ (strictPart false []).flash.pd = false) ∧
    (∀ k : Nat, k < 256 →
      Mem.read .flash (strictPart false []).flash.mem (programAddr (strictPart false []).cfg.flashBytes 0xFFFFFF k) = 0xFF) :=
  ⟨by decide, by decide, fun _ _ => rfl⟩
theorem witness_EraseWriteReadRoundTrip :
    (strictPart false []).cfg.wf = true ∧ 256 ≤ (strictPart false []).cfg.flashBytes ∧ (strictPart false []).clear = true ∧
    (strictPart false []).canBegin = true ∧ (strictPart false []).flash.bad = false ∧ (strictPart false []).flash.pd = false ∧
    (0xFFFF00 : Addr).toNat % 256 = 0 ∧ (List.replicate 256 (0 : Byte)).length = pageBytes := by decide
theorem witness_StrictPartFlagsUnerasedWrite :
    let s : State := { strictPart false [] with inited := true, flash := { FlashPart.reset with mem := [(255, 0)], wel := true } }
    (s.cfg.wf = true ∧ s.cfg.strict = true ∧ s.canBegin = true ∧ s.flash.bad = false ∧ s.inited = true ∧ s.flash.wel = true ∧
      (0x000000 : Addr).toNat = (s.savePage.toNat + (0 : Page).toNat) % 2 ^ 16 * 256) ∧
    meetsUnerased s.cfg s.flash.mem (0x000000 : Addr).toNat (List.replicate 256 0) :=
  ⟨by decide, 255, by decide, .inl (by decide)⟩
theorem witness_StrictPartFlagsSleepingAccess :
    let s : State := { strictPart true [] with inited := true }
    (s.cfg.wf = true ∧ s.cfg.strict = true ∧ s.flash.pd = true ∧ s.flash.bad = false ∧ s.flash.n = 0 ∧ s.canTransfer = true) ∧
    ((select s).cs = true ∧ (select s).pstate ≠ .reading ∧ (select s).flash.n = 0 ∧ (select s).canTransfer = true) ∧
    (canOpen s.pstate = true ∧ s.cs = (s.pstate == .selected) ∧ s.inited = true) ∧
    firstOpcode s.cfg (.drawbitmap 0 0 0 0 0) = some WireOp.read ∧ firstOpcode s.cfg (.opErase 0) = some WireOp.erase ∧
    secondOpcode s.cfg (.writesavepage 0 []) = some s.cfg.opWrite ∧ secondOpcode s.cfg (.eraseblock 0) = some WireOp.erase := by
  decide
theorem witness_InitResolvesPages : State.reset.inited = false ∧ (initialised []).inited = true := by decide
theorem witness_SeekdataSeeksaveOpenRead :
    ((initialised []).canBegin = true ∧ (initialised []).inited = true) ∧ canOpen (opened 0x03).pstate = false ∧
    (canOpen selected.pstate = true ∧ selected.inited = false) := by decide
theorem witness_SeekdataarrayOpensRead :
    ((initialised []).canBegin = true ∧ (initialised []).inited = true) ∧ canOpen (inRead 1 1 []).pstate = false ∧
    (canOpen State.reset.pstate = true ∧ State.reset.inited = false) := by decide
theorem witness_SaveRegionEraseAndWrite :
    (List.replicate 256 (0 : Byte)).length = pageBytes ∧
    ((initialised []).canBegin = true ∧ (initialised []).inited = true ∧ (initialised []).cfg.strict = false) ∧
    canOpen (opened 0x03).pstate = false ∧ (canOpen State.reset.pstate = true ∧ State.reset.inited = false) := by decide
theorem witness_KeySlotJoinsTwoBytes :
    Config.default.pmKeyOrder = .little ∧ ({ Config.default with pmKeyOrder := .big } : Config).pmKeyOrder = .big := by decide
theorem witness_UninitialisedPageFaults :
    translates (.drawbitmap 0 0 0 0 0) = some .data ∧ translates (.erasesaveblock 0) = some .save ∧
    State.reset.inited = false ∧ canOpen State.reset.pstate = true := by decide
theorem witness_TranslationArithmetic : (initialised []).inited = true ∧ State.reset.inited = false := by decide
theorem witness_PhaseTable :
    (commandOp .readlast = some 0x14 ∧ phaseAfter .readlast State.reset.pstate = none) ∧
    ((inRead 1 1 []).inv = true ∧ (inRead 1 1 []).clear = true ∧ phaseAfter .readlast (inRead 1 1 []).pstate = some .idle) ∧
    ∃ t, exec .readlast (inRead 1 1 []) = .next t ∧ t.clear = true :=
  ⟨by decide, by decide, _, rfl, by decide⟩
theorem witness_BrokenBusHangsCommand :
    let s : State := { onBrokenBus selected with inited := true }
    s.cfg.busOk = false ∧ (∀ rest, s.host ≠ .reset :: rest) ∧
    (firstOpcode s.cfg (.drawbitmap 0 0 0 0 0) = some 0x03 ∧ s.inflight = false ∧ canOpen s.pstate = true ∧
      s.cs = (s.pstate == .selected) ∧ s.flash.n = 0 ∧ s.cfg.strict = false ∧ s.inited = true) ∧
    (s.pstate ≠ .reading ∧ (onBrokenBus State.reset).cs = false ∧ (onBrokenBus State.reset).pstate ≠ .reading ∧
      (onBrokenBus (opened 0x03)).pstate ≠ .reading ∧ 1 ≤ (onBrokenBus (opened 0x03)).flash.n ∧
      (onBrokenBus (opened 0x03)).inflight = false) ∧
    (harvests .readlast16 = true ∧ (onBrokenBus (inRead 1 1 [])).pstate = .reading ∧
      (onBrokenBus (inRead 1 1 [])).inflight = true) := by
  refine ⟨by decide, fun _ h => ?_, by decide, by decide, by decide⟩
  cases h
theorem witness_WireFramesSent :
    State.reset.cfg.wf = true ∧
    ([0xAB, 0xB9, 0x06, 0x20, 0x03, 0x9F, 0x05, 0x35, State.reset.cfg.opWrite].all fun op => State.reset.canBeginFrame op) = true ∧
    State.reset.cfg.strict = false ∧
    ((strictPart true []).cfg.wf = true ∧
      ([0xAB, 0xB9, 0x06, 0x9F, 0x05, 0x35].all fun op => (strictPart true []).canBeginFrame op) = true) ∧
    ((strictPart false []).canBeginFrame (strictPart false []).cfg.opWrite = true ∧ (strictPart false []).flash.wel = false) ∧
    (canOpen (opened 0x03).pstate = false ∧ commandOp (.opErase 0) = none ∧
      firstOpcode (opened 0x03).cfg (.opErase 0) = some 0x20) := by decide
theorem witness_CommandsEqualTheirExpansions :
    expansion (inRead 1 1 []) .readlast16 = some [.readpending, .readlast] ∧ (inRead 1 1 []).busInv = true ∧
    (inRead 1 1 []).pstate ≠ .cmdOpen ∧ (runList [.readpending, .readlast] (inRead 1 1 [])).isSome = true ∧
    expansion State.reset (.seek 0x03 0x123456) = some [.select, .transfer 0x03, .transfer 0x12, .transfer 0x34, .transfer 0x56] ∧
    State.reset.busInv = true ∧ State.reset.pstate ≠ .cmdOpen ∧
    (runList [.select, .transfer 0x03, .transfer 0x12, .transfer 0x34, .transfer 0x56] State.reset).isSome = true := by decide
theorem witness_WireReadAnswersArray :
    State.reset.cfg.wf = true ∧ State.reset.canBegin = true ∧ State.reset.flash.bad = false ∧ State.reset.flash.pd = false := by
  decide
theorem witness_WireEraseAndWriteNeedLatch :
    let latched (s : State) : State := { s with flash := { s.flash with wel := true } }
    ([State.reset, latched State.reset, strictPart false [], latched (strictPart false [])].all fun s =>
      s.cfg.wf && decide (256 ≤ s.cfg.flashBytes) && s.canBegin && !s.flash.bad && !s.flash.pd) = true ∧
    1 ≤ [(1 : Byte)].length ∧ (List.replicate 256 (1 : Byte)).length ≤ 256 ∧
    (State.reset.cfg.strict = false ∧ State.reset.flash.wel = false ∧ (latched State.reset).flash.wel = true) ∧
    ((strictPart false []).cfg.strict = true ∧
      Mem.read .flash (latched (strictPart false [])).flash.mem (programAddr 16777216 0xFFFFFF 0) = 0xFF) := by decide
theorem witness_SleepingPartIgnoresFrames :
    let f : FlashPart := { FlashPart.reset with pd := true }
    f.pd = true ∧ f.bad = false ∧ f.n = 0 ∧ WireOp.read ≠ WireOp.releasePd ∧ Config.default.strict = false ∧
    hasAddress Config.default WireOp.jedecId = false := by decide
theorem witness_OtherOpcodesHaveNoEffect :
    FlashPart.reset.n = 0 ∧ FlashPart.reset.bad = false ∧ hasAddress Config.default 0x77 = false ∧
    (0x77 : Byte) ≠ WireOp.releasePd ∧ (0x77 : Byte) ≠ WireOp.powerDown ∧ (0x77 : Byte) ≠ WireOp.writeEnable := by decide
theorem witness_ComposeTruthTable : (0 : Nat) < 8 ∧ (7 : Nat) < 8 := by decide
theorem witness_ShiftSpansTwoRows : (7 : Nat) ≤ 7 ∧ (15 : Nat) < 16 ∧ (0 : Nat) ≤ 7 ∧ (0 : Nat) < 16 := by decide
theorem witness_BottomRowMask : (0 : Nat) < 8 ∧ (7 : Nat) < 8 := by decide
theorem witness_DrawbitmapCompletes :
    ((initialised two).cfg.wf = true ∧ (initialised two).canBegin = true ∧ (initialised two).inited = true) ∧
    canOpen (inRead 1 1 []).pstate = false ∧ (canOpen State.reset.pstate = true ∧ State.reset.inited = false) := by decide
theorem witness_DrawbitmapWireEvents :
    (initialised two).cfg.wf = true ∧ (initialised two).canBegin = true ∧ (initialised two).inited = true ∧
    (initialised two).flash.bad = false ∧ (initialised two).flash.pd = false ∧
    ∃ t, exec (.drawbitmap 0 3 0x000300 0 0) (initialised two) = .next t :=
  ⟨by decide, by decide, by decide, by decide, by decide, _, rfl⟩
theorem witness_DrawbitmapPixelLaw :
    (initialised two).cfg.wf = true ∧ (initialised two).canBegin = true ∧ (initialised two).inited = true ∧
    (initialised two).flash.bad = false ∧ (initialised two).flash.pd = false ∧
    (∃ t, exec (.drawbitmap 0 3 0x000300 0 0) (initialised two) = .next t) ∧
    127 < (initialised two).cfg.displayW ∧ 63 < (initialised two).cfg.displayH ∧
    (initialised two).pixelAfterDraw 0 3 0x000300 0 0 0 3 = true ∧ (initialised two).pixelAfterDraw 0 3 0x000300 0 0 127 63 = false :=
  ⟨by decide, by decide, by decide, by decide, by decide, ⟨_, rfl⟩, by decide, by decide, by decide, by decide⟩
theorem witness_InvertTwiceRestores :
    (initialised two).cfg.wf = true ∧ (initialised two).canBegin = true ∧ (initialised two).inited = true ∧
    (initialised two).flash.bad = false ∧ (initialised two).flash.pd = false ∧ (0x02 : Byte).getLsbD 1 = true ∧
    (runList [.drawbitmap 0 3 0x000300 0 0x02, .drawbitmap 0 3 0x000300 0 0x02] (initialised two)).isSome = true := by decide

end Sys2Proof.Tests
end

section
/-! PROOFS. Family 40, the bus primitive (`40_bus_primitive.md`): SELECT (R120). -/

namespace Sys2Proof.Machine

/-- A command whose body runs to the end answers the body's state with the value as its response (`30_encoding.md` R96). -/
theorem runCommand_ok {op : Byte} {body : State → Res Resp} {s t : State} {v : Resp} (h : body s = .ok v t) :
    runCommand op body s = .next (t.respond v) := by
  rw [runCommand, h]

theorem select_of_deasserted {s : State} (h : s.cs = false) : select s = s.openBus := by
  rw [select_eq, if_neg (by simp [h])]

theorem select_of_asserted {s : State} (h : s.cs = true) : select s = s := by
  rw [select_eq, if_pos h]

/-- SELECT never stops: it is `Select()` and the response 0 in every phase. -/
theorem exec_select (s : State) : exec .select s = .next ((select s).respond 0) :=
  runCommand_ok (op := 0x01) (body := fun s => .ok 0 (select s)) rfl

/-- Settles O16: SELECT is `Select()` and the response 0, and `Select()` opens the bus or leaves the state as it is by the level
of CS. -/
theorem selectOpensBus : Obligations.SelectOpensBus := by
  intro s
  constructor
  · intro deasserted
    rw [exec_select, select_of_deasserted deasserted]
    rfl
  · intro asserted
    rw [exec_select, select_of_asserted asserted]
    rfl

end Sys2Proof.Machine
end

section
/-! PROOFS. What the commands of family 41 share: the bounds that a parameter set in range gives, how a command ends, what a
response adds to what a bus command did, and the phases in which a protocol primitive is a misuse (`41_protocol_engine.md`
R147). -/

namespace Sys2Proof.Machine

/-! ## Parameters in range -/

theorem isPowerOfTwo_bounds {n : Nat} (h : isPowerOfTwo n = true) : 0 < n ∧ n ≤ 2 ^ 24 := by
  simp only [isPowerOfTwo, List.any_eq_true, List.mem_range, beq_iff_eq] at h
  obtain ⟨k, hk, rfl⟩ := h
  exact ⟨Nat.two_pow_pos k, Nat.pow_le_pow_right (by decide) (by omega)⟩

theorem Config.wf_flashBytes {cfg : Config} (h : cfg.wf = true) : 0 < cfg.flashBytes ∧ cfg.flashBytes ≤ 2 ^ 24 := by
  simp only [Config.wf, Bool.and_eq_true] at h
  obtain ⟨⟨⟨⟨-, hflash⟩, -⟩, -⟩, -⟩ := h
  exact isPowerOfTwo_bounds hflash

/-- OP_WRITE is told apart from the other wire opcodes, OP_READ among them. -/
theorem Config.wf_opWrite_ne_read {cfg : Config} (h : cfg.wf = true) : cfg.opWrite ≠ WireOp.read := by
  simp only [Config.wf, Bool.and_eq_true] at h
  obtain ⟨-, hdistinct⟩ := h
  intro same
  rw [same] at hdistinct
  exact absurd hdistinct (by decide)

/-- With FLASH_BYTES in range the 24-bit cursor holds `a mod FLASH_BYTES` exactly (`20_memory.md` R68). -/
theorem cursorAt_toNat {cfg : Config} (h : cfg.wf = true) (a : Nat) : (cursorAt cfg a).toNat = a % cfg.flashBytes := by
  obtain ⟨hpos, hle⟩ := Config.wf_flashBytes h
  rw [cursorAt, BitVec.toNat_ofNat, Nat.mod_eq_of_lt (Nat.lt_of_lt_of_le (Nat.mod_lt _ hpos) hle)]

/-! ## How a command ends -/

/-- A command whose first operation is a misuse at once records it, with its OP and the phase, and changes nothing else
(`60_exceptions.md` R223). -/
theorem runCommand_misuse {α : Type} {op : Byte} {first : State → Res α} {next : α → State → Res Resp} {s : State}
    (h : first s = .halt .misuse s) :
    runCommand op (fun s => (first s).bind next) s =
      .next { s with fault := some (.protocolMisuse (.command op) s.pstate) } := by
  rw [runCommand, h]
  rfl

/-- A command that returns no data and runs to its end responds 0 (`30_encoding.md` R96). -/
theorem runCommand_dataless_ok {op : Byte} {action : State → Res Unit} {s t : State} (h : action s = .ok () t) :
    runCommand op (fun s => andRespond0 (action s)) s = .next (t.respond 0) :=
  runCommand_ok (by simp only [andRespond0, h, Res.bind_ok])

/-! ## The response after a bus command -/

theorem FrameSent.respond {op : Byte} {rest : List Byte} {s t : State} (h : FrameSent op rest [] s t) (v : Resp) :
    FrameSent op rest [v] s (t.respond v) :=
  { h with responses := by simp [h.responses] }

theorem FrameOpened.respond {op : Byte} {rest : List Byte} {s t : State} (h : FrameOpened op rest [] s t) (v : Resp) :
    FrameOpened op rest [v] s (t.respond v) :=
  { h with responses := by simp [h.responses] }

theorem ReadOpened.respond {a : Addr} {s t : State} (h : ReadOpened a [] s t) (v : Resp) :
    ReadOpened a [v] s (t.respond v) :=
  { h with responses := by simp [h.responses] }

theorem ByteHarvested.respond {s t : State} (h : ByteHarvested [] s t) (v : Resp) :
    ByteHarvested [v] s (t.respond v) :=
  { h with responses := by simp [h.responses] }

theorem ReadEnded.respond {s t : State} (h : ReadEnded [] s t) (v : Resp) : ReadEnded [v] s (t.respond v) :=
  { h with responses := by simp [h.responses] }

/-! ## Misuse of a protocol primitive -/

theorem writeCmd_misuse (op : Byte) {s : State} (h : canOpen s.pstate = false) : writeCmd op s = .halt .misuse s := by
  rw [writeCmd, require_not h, Res.bind_halt]

theorem seek_misuse (op : Byte) (a : Addr) {s : State} (h : canOpen s.pstate = false) :
    seek op a s = .halt .misuse s := by
  rw [seek, require_not h, Res.bind_halt]

theorem beginRead_misuse (a : Addr) {s : State} (h : canOpen s.pstate = false) : beginRead a s = .halt .misuse s := by
  rw [beginRead, seek_misuse _ a h, Res.bind_halt]

theorem eraseBlock_misuse (a : Addr) {s : State} (h : canOpen s.pstate = false) : eraseBlock a s = .halt .misuse s := by
  rw [eraseBlock, writeCmd_misuse _ h, Res.bind_halt]

theorem readPending_misuse {s : State} (h : s.pstate ≠ .reading) : readPending s = .halt .misuse s := by
  rw [readPending, require_not (by simpa using h), Res.bind_halt]

theorem readLast_misuse {s : State} (h : s.pstate ≠ .reading) : readLast s = .halt .misuse s := by
  rw [readLast, require_not (by simpa using h), Res.bind_halt]

theorem readLast16_misuse {s : State} (h : s.pstate ≠ .reading) : readLast16 s = .halt .misuse s := by
  rw [readLast16, readPending_misuse h, Res.bind_halt]

end Sys2Proof.Machine
end

section
/-! PROOFS. Family 41, the flash protocol engine (`41_protocol_engine.md`): the commands that open a frame, WRITECMD (R130),
SEEK (R131) and BEGINREAD (R132). -/

namespace Sys2Proof.Machine

/-- `WriteCmd` runs where a frame of its opcode can be opened: one byte breaks no contract at its `D`. -/
theorem writeCmd_run (op : Byte) (s : State) (h : s.canBeginFrame op = true) :
    ∃ t, writeCmd op s = .ok () t ∧ FrameSent op [] [] s t :=
  sendFrame_run op [] s h (.inr (.inr (by decide)))

/-- Settles O19: WRITECMD is the one-byte frame and the response 0. -/
theorem writecmdSendsOneByteFrame : Obligations.WritecmdSendsOneByteFrame := by
  intro op s
  constructor
  · intro hbegin
    obtain ⟨t, hrun, hsent⟩ := writeCmd_run op s hbegin
    exact ⟨t.respond 0, runCommand_dataless_ok (action := writeCmd op) hrun, hsent.respond 0⟩
  · intro hphase
    exact runCommand_misuse (first := writeCmd op) (writeCmd_misuse op hphase)

/-- The opcodes after which the part loads its cursor are those that carry an address (`20_memory.md` R69). -/
theorem hasAddress_iff (cfg : Config) (op : Byte) :
    hasAddress cfg op = true ↔ op = WireOp.read ∨ op = cfg.opWrite ∨ op = WireOp.erase := by
  simp only [hasAddress, Bool.or_eq_true, beq_iff_eq, or_assoc]

/-- A part that heeds an addressed frame has the address in its cursor once the three address bytes are sent. -/
theorem FrameOpened.cursor {op : Byte} {a : Addr} {given : List Resp} {s t : State}
    (h : FrameOpened op (wireAddr a) given s t) (hn : s.flash.n = 0) (hbad : s.flash.bad = false)
    (hpd : s.flash.pd = false) (hop : hasAddress s.cfg op = true) : t.flash.cur = cursorAt s.cfg a.toNat := by
  rw [h.flash, wireAddr, FlashPart.feed_addressed _ _ _ _ hn hbad hpd hop]

/-- Settles O21: SEEK opens the frame with its opcode and its address, and the part that heeds it has loaded its cursor. -/
theorem seekOpensFrame : Obligations.SeekOpensFrame := by
  intro op addr s
  constructor
  · intro hbegin
    obtain ⟨-, -, -, hn, -⟩ := canBeginFrame_parts hbegin
    obtain ⟨t, hrun, hopen⟩ := seek_run op addr s hbegin
    have hanswered : FrameOpened op (wireAddr addr) [0] s (t.respond 0) := hopen.respond 0
    refine ⟨t.respond 0, runCommand_dataless_ok (action := seek op addr) hrun, hanswered, ?_⟩
    intro hbad hpd hop
    exact hanswered.cursor hn hbad hpd ((hasAddress_iff _ _).mpr hop)
  · intro hphase
    exact runCommand_misuse (first := seek op addr) (seek_misuse op addr hphase)

/-- The first byte that an awake part gives in a read frame is the one at the address, and its cursor then stands one past
it, both modulo FLASH_BYTES (`20_memory.md` R71). -/
theorem FlashPart.exchange_first_data {cfg : Config} (f : FlashPart) (a : Addr) (b : Byte) (hcfg : cfg.wf = true)
    (hn : f.n = 0) (hbad : f.bad = false) (hpd : f.pd = false) :
    (f.feed cfg [WireOp.read, addrHi a, addrMid a, addrLo a]).exchange cfg b =
      (some (Mem.read .flash f.mem (a.toNat % cfg.flashBytes)),
       { f with n := 5, op := WireOp.read, addr := a, buf := [], ign := false, bad := false,
                cur := cursorAt cfg (a.toNat + 1) }) := by
  have hnext : cursorAt cfg (a.toNat % cfg.flashBytes + 1) = cursorAt cfg (a.toNat + 1) := by
    rw [cursorAt, cursorAt, Nat.mod_add_mod]
  have haddressed := FlashPart.feed_addressed cfg f WireOp.read a hn hbad hpd rfl
  rw [addrHi, addrMid, addrLo, haddressed, FlashPart.exchange_data _ _ _ rfl rfl rfl (Nat.le_refl 4)]
  simp only [cursorAt_toNat hcfg, hnext]

/-- Settles O22: BEGINREAD opens the read, and the part that heeds it has answered the first dummy byte with the byte at the
address. -/
theorem beginreadOpensRead : Obligations.BeginreadOpensRead := by
  intro addr s
  constructor
  · intro hbegin
    obtain ⟨-, -, -, hn, -⟩ := canBegin_parts hbegin
    obtain ⟨t, hrun, hread⟩ := beginRead_run addr s hbegin
    refine ⟨t.respond 0, runCommand_dataless_ok (action := beginRead addr) hrun, hread.respond 0, ?_⟩
    intro hcfg hbad hpd
    have hfirst := FlashPart.exchange_first_data s.flash addr dummyByte hcfg hn hbad hpd
    refine ⟨hread.outstanding _ (by rw [hfirst]), ?_⟩
    have hflash : t.flash =
        ((s.flash.feed s.cfg [WireOp.read, addrHi addr, addrMid addr, addrLo addr]).exchange s.cfg dummyByte).2 :=
      hread.flash
    rw [State.respond_flash, hflash, hfirst]
    exact cursorAt_toNat hcfg _
  · intro hphase
    exact runCommand_misuse (first := beginRead addr) (beginRead_misuse addr hphase)

end Sys2Proof.Machine
end

section
/-! PROOFS. Family 41, the flash protocol engine (`41_protocol_engine.md`): the commands that harvest from a pipelined read,
READPENDING and READLAST (R133, R134) and their composites (R135 to R140). -/

namespace Sys2Proof.Machine

/-- `ReadPending` runs in a pipelined read and leaves it ready for the next harvest, so that harvests chain. -/
theorem readPending_chain (s : State) (h : s.canHarvest = true) :
    ∃ t, readPending s = .ok s.outstanding t ∧ ByteHarvested [] s t ∧ t.canHarvest = true := by
  obtain ⟨t, hrun, hbyte⟩ := readPending_run s h
  exact ⟨t, hrun, hbyte, hbyte.canHarvest h⟩

/-- In the data phase of a read the next flash byte is outstanding after a harvest, and the cursor has moved one on, modulo
FLASH_BYTES (`20_memory.md` R71). -/
theorem ByteHarvested.next_byte {given : List Resp} {s t : State} (h : ByteHarvested given s t) (hcfg : s.cfg.wf = true)
    (hbad : s.flash.bad = false) (hign : s.flash.ign = false) (hop : s.flash.op = WireOp.read) (hn : 4 ≤ s.flash.n) :
    t.outstanding = Mem.read .flash s.flash.mem s.flash.cur.toNat ∧
      t.flash.cur.toNat = (s.flash.cur.toNat + 1) % s.cfg.flashBytes := by
  have hdata := FlashPart.exchange_data s.cfg s.flash dummyByte hbad hign hop hn
  refine ⟨h.outstanding _ (by rw [hdata]), ?_⟩
  rw [h.flash, FlashPart.feed_cons, FlashPart.feed_nil, hdata]
  exact cursorAt_toNat hcfg _

/-- Settles O23: READPENDING is one harvest with its byte as the response. -/
theorem readpendingHarvestsByte : Obligations.ReadpendingHarvestsByte := by
  intro s
  constructor
  · intro hharvest
    obtain ⟨t, hrun, hbyte⟩ := readPending_run s hharvest
    refine ⟨t.respond (respOf s.outstanding), ?_, hbyte.respond _, ?_⟩
    · rw [exec, execReadpending]
      exact runCommand_ok (by simp only [hrun, Res.bind_ok])
    · exact (hbyte.respond (respOf s.outstanding)).next_byte
  · intro hphase
    rw [exec, execReadpending]
    exact runCommand_misuse (readPending_misuse hphase)

/-- The close of a frame whose opcode neither sets nor clears WE leaves it (`10_state.md` R25); OP_READ is such an opcode. -/
theorem weAfterClose_read {opWrite : Byte} (h : opWrite ≠ WireOp.read) (phase : PState) (we : Bool) :
    weAfterClose opWrite phase WireOp.read we = we := by
  have hset : WireOp.read ≠ WireOp.writeEnable := by decide
  have herase : WireOp.read ≠ WireOp.erase := by decide
  simp [weAfterClose, hset, herase, Ne.symm h]

/-- Settles O24: READLAST is the last harvest with its byte as the response. -/
theorem readlastEndsRead : Obligations.ReadlastEndsRead := by
  intro s
  constructor
  · intro hharvest
    obtain ⟨t, hrun, hend⟩ := readLast_run s hharvest
    refine ⟨t.respond (respOf s.outstanding), ?_, hend.respond _, ?_⟩
    · rw [exec, execReadlast]
      exact runCommand_ok (by simp only [hrun, Res.bind_ok])
    · intro hcfg hread
      rw [State.respond_we, hend.we, hread, weAfterClose_read (Config.wf_opWrite_ne_read hcfg)]
  · intro hphase
    rw [exec, execReadlast]
    exact runCommand_misuse (readLast_misuse hphase)

/-- Settles O25: each composite is its chain of harvests; the response joins what was outstanding before each of them. -/
theorem compositePendingReads : Obligations.CompositePendingReads := by
  intro s
  constructor
  · intro hharvest
    obtain ⟨t, runS, byteS, hharvestT⟩ := readPending_chain s hharvest
    obtain ⟨u, runT, byteT, hharvestU⟩ := readPending_chain t hharvestT
    obtain ⟨v, runU, byteU, hharvestV⟩ := readPending_chain u hharvestU
    obtain ⟨w, runV, byteV⟩ := readPending_run v hharvestV
    refine ⟨⟨t, _, byteS, byteT.respond _, ?_⟩,
      ⟨t, u, _, byteS, byteT, byteU.respond _, ?_⟩,
      ⟨t, u, v, _, byteS, byteT, byteU, byteV.respond _, ?_⟩⟩
    · rw [exec, execReadpending16]
      exact runCommand_ok (by simp only [runS, runT, Res.bind_ok, respOf, join16])
    · rw [exec, execReadpending24]
      exact runCommand_ok (by simp only [runS, runT, runU, Res.bind_ok, respOf, join24])
    · rw [exec, execReadpending32]
      exact runCommand_ok (by simp only [runS, runT, runU, runV, Res.bind_ok, join32])
  · intro hphase
    have hfirst := readPending_misuse hphase
    rw [exec, execReadpending16, exec, execReadpending24, exec, execReadpending32]
    exact ⟨runCommand_misuse hfirst, runCommand_misuse hfirst, runCommand_misuse hfirst⟩

/-- Settles O26: each composite is its chain of harvests and the close; the response joins what was outstanding before each
of them. -/
theorem compositeLastReads : Obligations.CompositeLastReads := by
  intro s
  constructor
  · intro hharvest
    obtain ⟨t, runS, byteS, hharvestT⟩ := readPending_chain s hharvest
    obtain ⟨u, runT, byteT, hharvestU⟩ := readPending_chain t hharvestT
    obtain ⟨v, runU, byteU, hharvestV⟩ := readPending_chain u hharvestU
    obtain ⟨t', lastT, endT⟩ := readLast_run t hharvestT
    obtain ⟨u', lastU, endU⟩ := readLast_run u hharvestU
    obtain ⟨v', lastV, endV⟩ := readLast_run v hharvestV
    refine ⟨⟨t, _, byteS, endT.respond _, ?_⟩,
      ⟨t, u, _, byteS, byteT, endU.respond _, ?_⟩,
      ⟨t, u, v, _, byteS, byteT, byteU, endV.respond _, ?_⟩⟩
    · rw [exec, execReadlast16]
      exact runCommand_ok (by simp only [readLast16, runS, lastT, Res.bind_ok, respOf, join16])
    · rw [exec, execReadlast24]
      exact runCommand_ok (by simp only [runS, runT, lastU, Res.bind_ok, respOf, join24])
    · rw [exec, execReadlast32]
      exact runCommand_ok (by simp only [runS, runT, runU, lastV, Res.bind_ok, join32])
  · intro hphase
    have hfirst := readPending_misuse hphase
    rw [exec, execReadlast16, exec, execReadlast24, exec, execReadlast32]
    exact ⟨runCommand_misuse (readLast16_misuse hphase), runCommand_misuse hfirst, runCommand_misuse hfirst⟩

end Sys2Proof.Machine
end

section
/-! PROOFS. Family 41, the flash protocol engine (`41_protocol_engine.md`): ERASEBLOCK (R144), with what the write-enable
frame and the erase frame do to the part (`20_memory.md` R70, R72, R74). -/

namespace Sys2Proof.Machine

/-! ## The two frames at the part -/

/-- A part whose contract was broken commits nothing (`20_memory.md` R70, R78). -/
theorem FlashPart.deselect_of_bad (cfg : Config) {f : FlashPart} (h : f.bad = true) :
    f.deselect cfg = { f with n := 0 } := by
  simp [FlashPart.deselect, FlashPart.release, h]

/-- The write-enable frame sets the latch of an awake part. -/
theorem FlashPart.writeEnable_frame (cfg : Config) (f : FlashPart) (hn : f.n = 0) (hbad : f.bad = false)
    (hpd : f.pd = false) :
    (f.feed cfg [WireOp.writeEnable]).deselect cfg =
      { f with wel := true, op := WireOp.writeEnable, addr := 0, buf := [], ign := false } := by
  have herase : WireOp.writeEnable ≠ WireOp.erase := by decide
  have hdown : WireOp.writeEnable ≠ WireOp.powerDown := by decide
  have hrelease : WireOp.writeEnable ≠ WireOp.releasePd := by decide
  have hopcode : (f.exchange cfg WireOp.writeEnable).2 = f.takeOpcode cfg WireOp.writeEnable := by
    simp [FlashPart.exchange, hn, hbad]
  rw [FlashPart.feed_cons, FlashPart.feed_nil, hopcode]
  simp [FlashPart.takeOpcode, FlashPart.deselect, FlashPart.commit, FlashPart.release, hn, hbad, hpd, herase, hdown,
    hrelease]

/-- The write-enable frame does not put a part to sleep, not even one whose contract was broken. -/
theorem FlashPart.writeEnable_frame_awake (cfg : Config) (f : FlashPart) (hn : f.n = 0) (hpd : f.pd = false) :
    ((f.feed cfg [WireOp.writeEnable]).deselect cfg).pd = false := by
  cases hbad : f.bad
  · rw [FlashPart.writeEnable_frame cfg f hn hbad hpd]
    exact hpd
  · rw [FlashPart.deselect_of_bad cfg (FlashPart.feed_bad_stays _ _ _ hbad)]
    simpa using hpd

/-- The erase frame blanks the block that contains the address, on an awake part whose latch is set, and clears the latch
(`20_memory.md` R74). -/
theorem FlashPart.erase_frame (cfg : Config) (f : FlashPart) (a : Addr) (hn : f.n = 0) (hbad : f.bad = false)
    (hpd : f.pd = false) (hwel : f.wel = true) :
    (f.feed cfg (WireOp.erase :: wireAddr a)).deselect cfg =
      { f with
        mem := Mem.blank f.mem (blockBase cfg a.toNat) cfg.eraseBlockBytes
        wel := false
        op := WireOp.erase
        addr := a
        buf := []
        ign := false
        cur := cursorAt cfg a.toNat } := by
  have hlatch : WireOp.erase ≠ WireOp.writeEnable := by decide
  have hdown : WireOp.erase ≠ WireOp.powerDown := by decide
  have hrelease : WireOp.erase ≠ WireOp.releasePd := by decide
  rw [wireAddr, FlashPart.feed_addressed cfg f WireOp.erase a hn hbad hpd ((hasAddress_iff _ _).mpr (.inr (.inr rfl)))]
  simp [FlashPart.deselect, FlashPart.commit, FlashPart.eraseBlock, FlashPart.release, hn, hbad, hwel, hdown, hrelease]

/-! ## The command -/

/-- `EraseBlock` runs where a command can begin: the write-enable frame leaves the part ready for the erase frame. -/
theorem eraseBlock_run (a : Addr) (s : State) (h : s.canBegin = true) :
    ∃ m t, eraseBlock a s = .ok () t ∧ FrameSent WireOp.writeEnable [] [] s m ∧
      FrameSent WireOp.erase (wireAddr a) [] m t := by
  obtain ⟨htransfer, -, -, hn, hcontract⟩ := canBegin_parts h
  obtain ⟨m, runEnable, sentEnable⟩ := writeCmd_run WireOp.writeEnable s (canBegin_frame h _)
  have hawake : s.cfg.strict = false ∨ m.flash.pd = false := by
    rw [Bool.or_eq_true, Bool.not_eq_true', Bool.not_eq_true'] at hcontract
    refine hcontract.imp_right fun hpd => ?_
    rw [sentEnable.flash]
    exact FlashPart.writeEnable_frame_awake s.cfg s.flash hn hpd
  have hbegin : m.canBegin = true := sentEnable.canBegin (canTransfer_parts htransfer).1 hawake
  obtain ⟨t, runErase, sentErase⟩ :=
    sendFrame_run WireOp.erase (wireAddr a) m (canBegin_frame hbegin _) (.inr (.inr (by simp [wireAddr])))
  refine ⟨m, t, ?_, sentEnable, sentErase⟩
  rw [eraseBlock, runEnable, Res.bind_ok, seek_deselect_eq]
  exact runErase

/-- The part after the two frames, awake before them: the block is blank, and the latch is clear. -/
theorem FrameSent.erased {a : Addr} {given given' : List Resp} {s m t : State}
    (hEnable : FrameSent WireOp.writeEnable [] given s m) (hErase : FrameSent WireOp.erase (wireAddr a) given' m t)
    (hn : s.flash.n = 0) (hbad : s.flash.bad = false) (hpd : s.flash.pd = false) :
    t.flash.wel = false ∧
      t.flash.mem = Mem.blank s.flash.mem (blockBase s.cfg a.toNat) s.cfg.eraseBlockBytes := by
  have hm := hEnable.flash
  rw [FlashPart.writeEnable_frame s.cfg s.flash hn hbad hpd] at hm
  have hblank := FlashPart.erase_frame s.cfg m.flash a (by rw [hm]; exact hn) (by rw [hm]; exact hbad)
    (by rw [hm]; exact hpd) (by rw [hm])
  rw [hErase.flash, State.kept_cfg hEnable.kept, hblank, hm]
  exact ⟨rfl, rfl⟩

/-- The close of an erase frame clears WE (`10_state.md` R25). -/
theorem weAfterClose_erase (opWrite : Byte) (we : Bool) : weAfterClose opWrite .cmdOpen WireOp.erase we = false := by
  simp [weAfterClose]

/-- Settles O29: ERASEBLOCK is its two frames and the response 0, and the awake part has blanked the block. -/
theorem eraseblockErasesBlock : Obligations.EraseblockErasesBlock := by
  intro addr s
  constructor
  · intro hbegin
    obtain ⟨-, -, -, hn, -⟩ := canBegin_parts hbegin
    obtain ⟨m, t, hrun, hEnable, hErase⟩ := eraseBlock_run addr s hbegin
    refine ⟨m, t.respond 0, runCommand_dataless_ok (action := eraseBlock addr) hrun, hEnable, hErase.respond 0, ?_, ?_⟩
    · rw [State.respond_we, hErase.we, weAfterClose_erase]
    · intro hbad hpd
      obtain ⟨hwel, hmem⟩ := hEnable.erased hErase hn hbad hpd
      refine ⟨hwel, fun a => ?_⟩
      rw [State.respond_flash, hmem, Mem.read_blank]
      rfl
  · intro hphase
    exact runCommand_misuse (first := eraseBlock addr) (eraseBlock_misuse addr hphase)

end Sys2Proof.Machine
end

section
/-! PROOFS. What every instruction keeps: an instruction that neither resolves the pages nor draws evolves the state as the bus
does and then gives at most an answer; DRAWBITMAP and a second INIT leave the pages too (`42_address_dispatch.md` R167,
`10_state.md` R26). -/

namespace Sys2Proof.Machine

/-! ## How an instruction ends -/

/-- How an instruction ends once its last operation has ended in `u`: with a response, with a verdict, or, a whole frame, with
neither (`30_encoding.md` R96, `60_exceptions.md` R228, log 3). -/
inductive Answered (u : State) : State → Prop where
  | silent : Answered u u
  | responded (v : Resp) : Answered u (u.respond v)
  | raised (given : Given) (phase : PState) (why : Stop) : Answered u (u.raise given phase why)

theorem runCommand_answered {op : Byte} {body : State → Res Resp} {s t : State} (h : runCommand op body s = .next t) :
    Answered (body s).final t := by
  rw [runCommand] at h
  split at h
  · cases h
    simpa [*] using Answered.responded _
  · cases h
    simpa [*] using Answered.raised _ _ _

theorem runFrame_answered {op : Byte} {rest : List Byte} {s t : State} (h : runFrame op rest s = .next t) :
    Answered (sendFrame op rest s).final t := by
  rw [runFrame] at h
  split at h
  · cases h
    simpa [*] using Answered.silent
  · cases h
    simpa [*] using Answered.raised _ _ _

/-- A command whose body stops records the verdict in the state in which it stopped (`60_exceptions.md` R228). -/
theorem runCommand_halt {op : Byte} {body : State → Res Resp} {s t : State} {why : Stop} (h : body s = .halt why t) :
    runCommand op body s = .next (t.raise (.command op) s.pstate why) := by
  rw [runCommand, h]

/-! ## The instructions that only use the bus -/

theorem andRespond0_evolves {s : State} {r : Res Unit} (h : Evolves s r.final) : Evolves s (andRespond0 r).final :=
  h.bind fun _ t _ => Evolves.refl t

theorem readLast16_evolves (s : State) : Evolves s (readLast16 s).final :=
  (readPending_evolves s).bind fun _ t _ => (readLast_evolves t).bind fun _ u _ => Evolves.refl u

theorem runCommand_evolves {op : Byte} {body : State → Res Resp} {s t : State} (h : runCommand op body s = .next t)
    (hbody : Evolves s (body s).final) : ∃ u, Evolves s u ∧ Answered u t :=
  ⟨_, hbody, runCommand_answered h⟩

theorem runFrame_evolves {op : Byte} {rest : List Byte} {s t : State} (h : runFrame op rest s = .next t) :
    ∃ u, Evolves s u ∧ Answered u t :=
  ⟨_, sendFrame_evolves op rest s, runFrame_answered h⟩

/-- What an instruction can do to the state, said once for all but INIT and DRAWBITMAP. -/
theorem exec_evolves (i : Instr) {s t : State} (hinit : resolvesPages i = false) (hdraw : drawsBitmap i = false)
    (h : exec i s = .next t) : ∃ u, Evolves s u ∧ Answered u t := by
  cases i with rw [exec] at h
  | select => exact runCommand_evolves h (select_evolves s)
  | deselect =>
    exact runCommand_evolves h ((require_evolves _ s).bind fun _ u _ => andRespond0_evolves (deselect_evolves u))
  | transfer byte =>
    exact runCommand_evolves h ((require_evolves _ s).bind fun _ u _ =>
      (xferTracked_evolves byte u).bind fun _ v _ => Evolves.refl v)
  | writecmd opcode => exact runCommand_evolves h (andRespond0_evolves (writeCmd_evolves opcode s))
  | seek opcode addr => exact runCommand_evolves h (andRespond0_evolves (seek_evolves opcode addr s))
  | beginread addr => exact runCommand_evolves h (andRespond0_evolves (beginRead_evolves addr s))
  | readpending => exact runCommand_evolves h ((readPending_evolves s).bind fun _ u _ => Evolves.refl u)
  | readlast => exact runCommand_evolves h ((readLast_evolves s).bind fun _ u _ => Evolves.refl u)
  | readpending16 =>
    exact runCommand_evolves h ((readPending_evolves s).bind fun _ u _ => (readPending_evolves u).bind fun _ v _ =>
      Evolves.refl v)
  | readpending24 =>
    exact runCommand_evolves h ((readPending_evolves s).bind fun _ u _ => (readPending_evolves u).bind fun _ v _ =>
      (readPending_evolves v).bind fun _ w _ => Evolves.refl w)
  | readpending32 =>
    exact runCommand_evolves h ((readPending_evolves s).bind fun _ u _ => (readPending_evolves u).bind fun _ v _ =>
      (readPending_evolves v).bind fun _ w _ => (readPending_evolves w).bind fun _ x _ => Evolves.refl x)
  | readlast16 => exact runCommand_evolves h ((readLast16_evolves s).bind fun _ u _ => Evolves.refl u)
  | readlast24 =>
    exact runCommand_evolves h ((readPending_evolves s).bind fun _ u _ => (readPending_evolves u).bind fun _ v _ =>
      (readLast_evolves v).bind fun _ w _ => Evolves.refl w)
  | readlast32 =>
    exact runCommand_evolves h ((readPending_evolves s).bind fun _ u _ => (readPending_evolves u).bind fun _ v _ =>
      (readPending_evolves v).bind fun _ w _ => (readLast_evolves w).bind fun _ x _ => Evolves.refl x)
  | writeenable => exact runCommand_evolves h (andRespond0_evolves (writeCmd_evolves WireOp.writeEnable s))
  | wake => exact runCommand_evolves h (andRespond0_evolves (writeCmd_evolves WireOp.releasePd s))
  | sleep => exact runCommand_evolves h (andRespond0_evolves (writeCmd_evolves WireOp.powerDown s))
  | eraseblock addr => exact runCommand_evolves h (andRespond0_evolves (eraseBlock_evolves addr s))
  | writepage addr data => exact runCommand_evolves h (andRespond0_evolves (writePage_evolves addr data s))
  | init devDataPage devSavePage => cases hinit
  | seekdata offset => exact runCommand_evolves h (andRespond0_evolves (seekData_evolves offset s))
  | seeksave offset => exact runCommand_evolves h (andRespond0_evolves (seekSave_evolves offset s))
  | seekdataarray index elementSize extraOffset =>
    exact runCommand_evolves h (andRespond0_evolves (seekData_evolves (arrayOffset index elementSize extraOffset) s))
  | erasesaveblock logicalPage =>
    exact runCommand_evolves h ((require_evolves _ s).bind fun _ u _ => (toSavePage_evolves logicalPage u).bind fun a v _ =>
      andRespond0_evolves (eraseBlock_evolves a v))
  | writesavepage logicalPage data =>
    exact runCommand_evolves h ((require_evolves _ s).bind fun _ u _ => (toSavePage_evolves logicalPage u).bind fun a v _ =>
      andRespond0_evolves (writePage_evolves a data v))
  | drawbitmap x y addr frame mode => cases hdraw
  | opReleasePd => exact runFrame_evolves h
  | opPowerDown => exact runFrame_evolves h
  | opWriteEnable => exact runFrame_evolves h
  | opRead addr dummies => exact runFrame_evolves h
  | opWrite addr data => exact runFrame_evolves h
  | opErase addr => exact runFrame_evolves h
  | opJedecId dummies => exact runFrame_evolves h
  | opReadStatus1 dummies => exact runFrame_evolves h
  | opReadStatus2 dummies => exact runFrame_evolves h

/-! ## The pages -/

/-- The page registers of `s` and `t` are the same, INITED among them (`10_state.md` R26). -/
def State.samePages (s t : State) : Prop :=
  t.dataPage = s.dataPage ∧ t.savePage = s.savePage ∧ t.inited = s.inited

theorem State.samePages_refl (s : State) : s.samePages s := ⟨rfl, rfl, rfl⟩

theorem State.samePages.trans {s t u : State} (h : s.samePages t) (g : t.samePages u) : s.samePages u := by
  obtain ⟨hdata, hsave, hinited⟩ := h
  obtain ⟨gdata, gsave, ginited⟩ := g
  exact ⟨gdata.trans hdata, gsave.trans hsave, ginited.trans hinited⟩

/-- A sequence leaves the pages where its parts do. -/
theorem State.samePages.bind {α β : Type} {s : State} {r : Res α} {f : α → State → Res β} (h : s.samePages r.final)
    (g : ∀ (a : α) (t : State), t.samePages (f a t).final) : s.samePages (r.bind f).final := by
  cases r with
  | ok a t => exact h.trans (g a t)
  | halt why t => exact h

theorem Evolves.samePages {s t : State} (h : Evolves s t) : s.samePages t := by
  obtain ⟨hdata, hsave, hinited, -⟩ := h.kept
  exact ⟨hdata, hsave, hinited⟩

theorem Answered.samePages {u t : State} (h : Answered u t) : u.samePages t := by
  cases h with
  | silent => exact u.samePages_refl
  | responded v => exact ⟨rfl, rfl, rfl⟩
  | raised given phase why => cases why <;> exact ⟨rfl, rfl, rfl⟩

/-! ### DRAWBITMAP -/

theorem drawColumn_samePages (b : Blit) (mode row : Byte) (c : Nat) (s : State) :
    s.samePages (drawColumn b mode row c s).final := by
  refine (readPending_evolves s).samePages.bind fun p t => State.samePages.bind ?_ fun mp u => ?_
  · rw [fetchMask]
    split
    · exact (readPending_evolves t).samePages
    · exact t.samePages_refl
  · rw [composeColumn_same]
    exact ⟨rfl, rfl, rfl⟩

theorem drawColumns_samePages (b : Blit) (mode row : Byte) (count c : Nat) (s : State) :
    s.samePages (drawColumns b mode row count c s).final := by
  induction count generalizing c s with
  | zero => exact s.samePages_refl
  | succ k ih => exact (drawColumn_samePages b mode row c s).bind fun _ t => ih (c + 1) t

theorem withBlit_samePages (b : Option Blit) (s : State) : s.samePages (s.withBlit b) := ⟨rfl, rfl, rfl⟩

theorem drawRow_samePages (mode : Byte) (i : Nat) (b : Blit) (s : State) : s.samePages (drawRow mode i b s).final :=
  ((withBlit_samePages _ s).trans (seekData_evolves b.src _).samePages).bind fun _ t =>
    (drawColumns_samePages b mode _ _ 0 t).bind fun _ u =>
      (readLast_evolves u).samePages.bind fun _ v => v.samePages_refl

theorem drawRows_samePages (mode : Byte) (count i : Nat) (b : Blit) (s : State) :
    s.samePages (drawRows mode count i b s).final := by
  induction count generalizing i b s with
  | zero => exact s.samePages_refl
  | succ k ih => exact (drawRow_samePages mode i b s).bind fun _ t => ih (i + 1) (nextRow b) t

theorem readHeader_evolves (addr : Addr) (s : State) : Evolves s (readHeader addr s).final :=
  (seekData_evolves addr s).bind fun _ t _ => (readPending_evolves t).bind fun _ u _ =>
    (readPending_evolves u).bind fun _ v _ => (readLast16_evolves v).bind fun _ w _ => Evolves.refl w

theorem drawBitmap_samePages (x y : Half) (addr : Addr) (frame mode : Byte) (s : State) :
    s.samePages (drawBitmap x y addr frame mode s).final := by
  refine (readHeader_evolves addr s).samePages.bind fun wh t => ?_
  split
  · exact t.samePages_refl
  · exact (drawRows_samePages mode _ 0 _ t).bind fun _ u => withBlit_samePages none u

theorem exec_drawbitmap_samePages (x y : Half) (addr : Addr) (frame mode : Byte) {s t : State}
    (h : exec (.drawbitmap x y addr frame mode) s = .next t) : s.samePages t := by
  rw [exec] at h
  refine State.samePages.trans ?_ (runCommand_answered h).samePages
  refine (require_evolves _ s).samePages.bind fun _ u => ?_
  split
  · exact (drawBitmap_samePages x y addr frame mode u).bind fun _ v => v.samePages_refl
  · exact u.samePages_refl

/-! ### Every instruction -/

theorem exec_samePages (i : Instr) {s t : State} (hinit : resolvesPages i = false) (h : exec i s = .next t) :
    s.samePages t := by
  cases hdraw : drawsBitmap i with
  | false =>
    obtain ⟨u, hevolves, hanswer⟩ := exec_evolves i hinit hdraw h
    exact hevolves.samePages.trans hanswer.samePages
  | true =>
    cases i with
    | drawbitmap x y addr frame mode => exact exec_drawbitmap_samePages x y addr frame mode h
    | _ => cases hdraw

theorem eq_init_of_resolvesPages {i : Instr} (h : resolvesPages i = true) :
    ∃ devData devSave, i = .init devData devSave := by
  cases i with
  | init devData devSave => exact ⟨devData, devSave, rfl⟩
  | _ => cases h

/-- A second INIT sets REFUSED and changes nothing else (`42_address_dispatch.md` R160). -/
theorem exec_init_again (devData devSave : Page) {s : State} (h : s.inited = true) :
    exec (.init devData devSave) s = .next { s with refused := some .secondInit } := by
  rw [exec]
  exact runCommand_halt (why := .secondInit) (if_pos h)

/-- Settles O13: only INIT writes the pages, and a second INIT is refused. -/
theorem pagesConstantAfterInit : Obligations.PagesConstantAfterInit := by
  intro i s t h
  refine ⟨fun hinited => ?_, fun hinit => exec_samePages i hinit h⟩
  cases hinit : resolvesPages i with
  | false =>
    obtain ⟨hdata, hsave, hsame⟩ := exec_samePages i hinit h
    exact ⟨hdata, hsave, hsame.trans hinited⟩
  | true =>
    obtain ⟨devData, devSave, rfl⟩ := eq_init_of_resolvesPages hinit
    rw [exec_init_again devData devSave hinited] at h
    cases h
    exact ⟨rfl, rfl, hinited⟩

end Sys2Proof.Machine
end

section
/-! PROOFS. Family 42, the address translator (`42_address_dispatch.md`): the translation in numbers, INIT (R160), the five
commands that translate an address (R161 to R165), and the page write that WRITESAVEPAGE sends
(`41_protocol_engine.md` R145). -/

namespace Sys2Proof.Machine

/-! ## Addresses in numbers (`20_memory.md` R61 to R63) -/

theorem pageBase_toNat (page : Page) : (pageBase page).toNat = page.toNat * 256 := by
  rw [pageBase, BitVec.toNat_append, Nat.shiftLeft_eq]
  exact Nat.or_zero _

theorem translate_toNat (page : Page) (offset : Addr) :
    (translate page offset).toNat = (page.toNat * 256 + offset.toNat) % 2 ^ 24 := by
  rw [translate, BitVec.toNat_add, pageBase_toNat]

theorem savePageAddr_toNat (page logical : Page) :
    (savePageAddr page logical).toNat = (page.toNat + logical.toNat) % 2 ^ 16 * 256 := by
  rw [savePageAddr, pageBase_toNat, BitVec.toNat_add]

theorem arrayOffset_toNat (index elementSize : Byte) (extra : Addr) :
    (arrayOffset index elementSize extra).toNat =
      (index.toNat * (if elementSize = 0 then 256 else elementSize.toNat) + extra.toNat) % 2 ^ 24 :=
  BitVec.toNat_ofNat _ _

/-- The offset of an array element is reduced once, with the page (`42_address_dispatch.md` R163). -/
theorem translate_arrayOffset_toNat (page : Page) (index elementSize : Byte) (extra : Addr) :
    (translate page (arrayOffset index elementSize extra)).toNat =
      (page.toNat * 256 +
        (index.toNat * (if elementSize = 0 then 256 else elementSize.toNat) + extra.toNat)) % 2 ^ 24 := by
  rw [translate_toNat, arrayOffset_toNat, Nat.add_mod_mod]

/-! ## The translator's reads of the pages -/

theorem toDataAddress_inited (offset : Addr) {s : State} (h : s.inited = true) :
    toDataAddress offset s = .ok (translate s.dataPage offset) s := if_pos h

theorem toDataAddress_uninit (offset : Addr) {s : State} (h : s.inited = false) :
    toDataAddress offset s = .halt (.uninit .data) s := if_neg (Bool.eq_false_iff.mp h)

theorem toSaveAddress_inited (offset : Addr) {s : State} (h : s.inited = true) :
    toSaveAddress offset s = .ok (translate s.savePage offset) s := if_pos h

theorem toSaveAddress_uninit (offset : Addr) {s : State} (h : s.inited = false) :
    toSaveAddress offset s = .halt (.uninit .save) s := if_neg (Bool.eq_false_iff.mp h)

theorem toSavePage_inited (logical : Page) {s : State} (h : s.inited = true) :
    toSavePage logical s = .ok (savePageAddr s.savePage logical) s := if_pos h

theorem toSavePage_uninit (logical : Page) {s : State} (h : s.inited = false) :
    toSavePage logical s = .halt (.uninit .save) s := if_neg (Bool.eq_false_iff.mp h)

/-! ## INIT -/

/-- Settles O35: INIT resolves both pages and responds 0, and a second one is refused. -/
theorem initResolvesPages : Obligations.InitResolvesPages := by
  intro devData devSave s
  refine ⟨fun huninit => ?_, exec_init_again devData devSave⟩
  rw [exec, execInit, runCommand, if_neg (Bool.eq_false_iff.mp huninit)]
  rfl

/-! ## A command that translates an address -/

theorem Res.bind_assoc {α β γ : Type} (r : Res α) (f : α → State → Res β) (g : β → State → Res γ) :
    (r.bind f).bind g = r.bind fun a s => (f a s).bind g := by
  cases r <;> rfl

/-- The common form of the commands of family 42 but INIT: the phase is checked, then the page (`60_exceptions.md` R228), and
the protocol primitive `action` runs at the physical address. -/
def translatingCommand (op : Byte) (translator : State → Res Addr) (action : Addr → State → Res Unit) (s : State) :
    Host.Outcome State Fault Refusal :=
  runCommand op (fun s =>
    andRespond0 ((require (canOpen s.pstate) s).bind fun _ s => (translator s).bind action)) s

theorem exec_seekdata (offset : Addr) (s : State) :
    exec (.seekdata offset) s = translatingCommand 0x21 (toDataAddress offset) beginRead s := rfl

theorem exec_seeksave (offset : Addr) (s : State) :
    exec (.seeksave offset) s = translatingCommand 0x22 (toSaveAddress offset) beginRead s := rfl

theorem exec_seekdataarray (index elementSize : Byte) (extra : Addr) (s : State) :
    exec (.seekdataarray index elementSize extra) s =
      translatingCommand 0x23 (toDataAddress (arrayOffset index elementSize extra)) beginRead s := rfl

theorem exec_erasesaveblock (logical : Page) (s : State) :
    exec (.erasesaveblock logical) s = translatingCommand 0x24 (toSavePage logical) eraseBlock s := by
  simp only [exec, execErasesaveblock, translatingCommand, andRespond0, Res.bind_assoc]

theorem exec_writesavepage (logical : Page) (data : List Byte) (s : State) :
    exec (.writesavepage logical data) s =
      translatingCommand 0x25 (toSavePage logical) (fun a => writePage a data) s := by
  simp only [exec, execWritesavepage, translatingCommand, andRespond0, Res.bind_assoc]

section
variable {op : Byte} {translator : State → Res Addr} {action : Addr → State → Res Unit} {s : State}

theorem translatingCommand_misuse (hphase : canOpen s.pstate = false) :
    translatingCommand op translator action s =
      .next { s with fault := some (.protocolMisuse (.command op) s.pstate) } :=
  runCommand_halt (why := .misuse) (by rw [require_not hphase]; rfl)

theorem translatingCommand_uninit {region : Region} (hphase : canOpen s.pstate = true)
    (huninit : translator s = .halt (.uninit region) s) :
    translatingCommand op translator action s = .next { s with fault := some (.uninitialisedPage region) } :=
  runCommand_halt (why := .uninit region) (by rw [require_of hphase, Res.bind_ok, huninit]; rfl)

/-- With a page the command is `action` at the physical address, under its own OP. -/
theorem translatingCommand_translated {a : Addr} (hphase : canOpen s.pstate = true) (htranslated : translator s = .ok a s) :
    translatingCommand op translator action s = runCommand op (fun s => andRespond0 (action a s)) s := by
  rw [translatingCommand, runCommand, require_of hphase, Res.bind_ok, htranslated, Res.bind_ok, runCommand]

end

/-! ## The seeks -/

/-- A translated seek opens a read at the physical address and responds 0 (`42_address_dispatch.md` R161 to R163). -/
theorem translatingCommand_beginRead {op : Byte} {translator : State → Res Addr} {s : State} {a : Addr}
    (hbegin : s.canBegin = true) (htranslated : translator s = .ok a s) :
    ∃ t, translatingCommand op translator beginRead s = .next t ∧ ReadOpened a [0] s t := by
  obtain ⟨-, hphase, -⟩ := canBegin_parts hbegin
  obtain ⟨t, hrun, hread⟩ := beginRead_run a s hbegin
  rw [translatingCommand_translated hphase htranslated]
  exact ⟨t.respond 0, runCommand_dataless_ok hrun, hread.respond 0⟩

/-- Settles O37: both seeks are `BeginRead` at the translated address. -/
theorem seekdataSeeksaveOpenRead : Obligations.SeekdataSeeksaveOpenRead := by
  intro offset s
  rw [exec_seekdata, exec_seeksave]
  refine ⟨fun hbegin hinited => ⟨?_, ?_⟩, fun hphase => ⟨?_, ?_⟩, fun hphase huninit => ⟨?_, ?_⟩⟩
  · obtain ⟨t, hrun, hread⟩ := translatingCommand_beginRead hbegin (toDataAddress_inited offset hinited)
    exact ⟨_, t, translate_toNat _ _, hrun, hread⟩
  · obtain ⟨t, hrun, hread⟩ := translatingCommand_beginRead hbegin (toSaveAddress_inited offset hinited)
    exact ⟨_, t, translate_toNat _ _, hrun, hread⟩
  · exact translatingCommand_misuse hphase
  · exact translatingCommand_misuse hphase
  · exact translatingCommand_uninit hphase (toDataAddress_uninit offset huninit)
  · exact translatingCommand_uninit hphase (toSaveAddress_uninit offset huninit)

/-- Settles O38: SEEKDATAARRAY is the seek at the element's offset. -/
theorem seekdataarrayOpensRead : Obligations.SeekdataarrayOpensRead := by
  intro index elementSize extra s
  rw [exec_seekdataarray]
  refine ⟨fun hbegin hinited => ?_, translatingCommand_misuse, fun hphase huninit => ?_⟩
  · obtain ⟨t, hrun, hread⟩ := translatingCommand_beginRead hbegin (toDataAddress_inited _ hinited)
    exact ⟨_, t, translate_arrayOffset_toNat _ _ _ _, hrun, hread⟩
  · exact translatingCommand_uninit hphase (toDataAddress_uninit _ huninit)

end Sys2Proof.Machine
end

section
/-! PROOFS. The page write (`41_protocol_engine.md` R145): its two frames, and that a strict part takes the second one where
no target byte is met unerased (`20_memory.md` R78). -/

namespace Sys2Proof.Machine

/-! ## The write frame at the part -/

/-- In the data phase of a read the part collects no payload. -/
theorem FlashPart.feed_read_buf (cfg : Config) (f : FlashPart) (data : List Byte) (hbad : f.bad = false)
    (hign : f.ign = false) (hop : f.op = WireOp.read) (hn : 4 ≤ f.n) : (f.feed cfg data).buf = f.buf := by
  induction data generalizing f with
  | nil => rfl
  | cons b rest ih =>
    rw [FlashPart.feed_cons, FlashPart.exchange_data cfg f b hbad hign hop hn]
    exact ih _ hbad hign hop (Nat.le_succ_of_le hn)

/-- The close of a write frame breaks no contract of an awake part where no target byte is met unerased. Where OP_WRITE is
OP_READ the part has collected nothing to program. -/
theorem FlashPart.write_frame_unbroken_awake (cfg : Config) (f : FlashPart) (a : Addr) (data : List Byte) (hn : f.n = 0)
    (hbad : f.bad = false) (hpd : f.pd = false) (herased : ¬ meetsUnerased cfg f.mem a.toNat data) :
    ((f.feed cfg (cfg.opWrite :: (wireAddr a ++ data))).deselect cfg).bad = false := by
  have haddressed := FlashPart.feed_addressed cfg f cfg.opWrite a hn hbad hpd ((hasAddress_iff _ _).mpr (.inr (.inl rfl)))
  rw [← List.cons_append, FlashPart.feed_append, wireAddr, haddressed]
  refine Bool.eq_false_iff.mpr fun hbroken => ?_
  rcases (FlashPart.deselect_bad_iff _ _).mp hbroken with hfed | ⟨-, -, -, -, -, -, hmeets⟩
  · rw [FlashPart.feed_bad_same _ _ _ fun _ _ => .inr (by simp)] at hfed
    cases hfed
  · by_cases hread : cfg.opWrite = WireOp.read
    · rw [FlashPart.feed_read_buf _ _ _ rfl rfl hread (Nat.le_refl 4)] at hmeets
      obtain ⟨k, hk, -⟩ := hmeets
      exact absurd hk (Nat.not_lt_zero k)
    · rw [FlashPart.feed_payload _ _ _ rfl rfl rfl hread (Nat.le_refl 4)] at hmeets
      exact herased hmeets

/-- The close of a write frame breaks no contract where the part enforces none, holds one broken already, or meets no unerased
byte. -/
theorem FlashPart.write_frame_unbroken (cfg : Config) (f : FlashPart) (a : Addr) (data : List Byte) (hn : f.n = 0)
    (hawake : (!cfg.strict || !f.pd) = true)
    (hsafe : cfg.strict = false ∨ f.bad = true ∨ ¬ meetsUnerased cfg f.mem a.toNat data) :
    ((f.feed cfg (cfg.opWrite :: (wireAddr a ++ data))).deselect cfg).bad =
      (f.feed cfg (cfg.opWrite :: (wireAddr a ++ data))).bad := by
  cases hstrict : cfg.strict with
  | false => exact FlashPart.deselect_bad_same _ _ (.inl hstrict)
  | true =>
    have hpd : f.pd = false := by simpa [hstrict] using hawake
    cases hbad : f.bad with
    | true => rw [FlashPart.deselect_of_bad _ (FlashPart.feed_bad_stays _ _ _ hbad)]
    | false =>
      have herased : ¬ meetsUnerased cfg f.mem a.toNat data := by simpa [hstrict, hbad] using hsafe
      rw [FlashPart.write_frame_unbroken_awake cfg f a data hn hbad hpd herased,
        FlashPart.feed_bad_same _ _ _ fun _ _ => .inl (by simp [hpd]), hbad]

/-- The write-enable frame leaves the array, whatever opcode OP_WRITE is: it is too short to program or to erase. -/
theorem FlashPart.writeEnable_frame_mem (cfg : Config) (f : FlashPart) (hn : f.n = 0) :
    ((f.feed cfg [WireOp.writeEnable]).deselect cfg).mem = f.mem := by
  rw [FlashPart.deselect_mem_same, FlashPart.feed_mem]
  simp [hn]

theorem FlashPart.writeEnable_frame_bad (cfg : Config) (f : FlashPart) (h : f.bad = true) :
    ((f.feed cfg [WireOp.writeEnable]).deselect cfg).bad = true :=
  (FlashPart.deselect_bad_iff _ _).mpr (.inl (FlashPart.feed_bad_stays _ _ _ h))

/-! ## The primitive -/

/-- After the write-enable frame another command may begin. -/
theorem FrameSent.canBegin_writeEnable {s m : State} (hsent : FrameSent WireOp.writeEnable [] [] s m)
    (h : s.canBegin = true) : m.canBegin = true := by
  obtain ⟨htransfer, -, -, hn, hcontract⟩ := canBegin_parts h
  rw [Bool.or_eq_true, Bool.not_eq_true', Bool.not_eq_true'] at hcontract
  refine hsent.canBegin (canTransfer_parts htransfer).1 (hcontract.imp_right fun hpd => ?_)
  rw [hsent.flash]
  exact FlashPart.writeEnable_frame_awake s.cfg s.flash hn hpd

/-- Where a command can begin, `WritePage` sends the write-enable frame, opens the write frame with its payload, and ends as
the `D` does. -/
theorem writePage_opened (a : Addr) (data : List Byte) (s : State) (h : s.canBegin = true) :
    ∃ m u, writePage a data s = deselect u ∧ FrameSent WireOp.writeEnable [] [] s m ∧ m.canBegin = true ∧
      FrameOpened s.cfg.opWrite (wireAddr a ++ data) [] m u := by
  obtain ⟨m, runEnable, sentEnable⟩ := writeCmd_run WireOp.writeEnable s (canBegin_frame h _)
  have hcfg : m.cfg = s.cfg := State.kept_cfg sentEnable.kept
  have hbegin : m.canBegin = true := sentEnable.canBegin_writeEnable h
  obtain ⟨htransfer, -⟩ := canBegin_parts hbegin
  obtain ⟨t, runSeek, opened⟩ := seek_run s.cfg.opWrite a m (canBegin_frame hbegin _)
  obtain ⟨u, runData, openedData⟩ := opened.sendMore (canTransfer_parts htransfer).1 data
  refine ⟨m, u, ?_, sentEnable, hbegin, openedData⟩
  rw [writePage, runEnable, Res.bind_ok, hcfg, runSeek, Res.bind_ok, runData, Res.bind_ok]

/-- The `D` of an open frame completes the frame or breaks contract 2; it is no misuse. -/
theorem FrameOpened.deselect_not_misuse {op : Byte} {rest : List Byte} {given : List Resp} {s t : State}
    (h : FrameOpened op rest given s t) (u : State) : deselect t ≠ .halt .misuse u := by
  rw [deselect_eq, if_neg (by simp [h.inflight]), if_pos h.cs]
  split <;> simp

theorem writePage_not_misuse (a : Addr) (data : List Byte) {s : State} (h : s.canBegin = true) (t : State) :
    writePage a data s ≠ .halt .misuse t := by
  obtain ⟨m, u, hrun, -, -, hopen⟩ := writePage_opened a data s h
  rw [hrun]
  exact hopen.deselect_not_misuse t

/-- A frame whose `D` breaks no contract is sent. -/
theorem FrameOpened.close_unbroken {op : Byte} {rest : List Byte} {s t : State} (h : FrameOpened op rest [] s t)
    (hbad : (t.flash.deselect t.cfg).bad = t.flash.bad) :
    deselect t = .ok () t.dropBus.closePhase ∧ FrameSent op rest [] s t.dropBus.closePhase := by
  have hcfg : t.cfg = s.cfg := State.kept_cfg h.kept
  have hwire : t.trace.map Event.seen = _ := h.wire
  constructor
  · simp [deselect_eq, h.inflight, h.cs, hbad]
  · exact {
      cs := rfl
      inflight := h.inflight
      pstate := rfl
      cmdop := h.cmdop
      we := by simp [hcfg, h.pstate, h.cmdop, h.we]
      responses := h.responses
      flash := by simp [hcfg, h.flash]
      wire := by simp [State.wire, hwire]
      kept := State.kept_trans h.kept (by simp [State.kept]) }

/-- `WritePage` sends its two frames where a command can begin and the part enforces nothing, commits nothing more, or meets
no unerased byte. -/
theorem writePage_run (a : Addr) (data : List Byte) (s : State) (h : s.canBegin = true)
    (hsafe : s.cfg.strict = false ∨ s.flash.bad = true ∨ ¬ meetsUnerased s.cfg s.flash.mem a.toNat data) :
    ∃ m t, writePage a data s = .ok () t ∧ FrameSent WireOp.writeEnable [] [] s m ∧
      FrameSent s.cfg.opWrite (wireAddr a ++ data) [] m t := by
  obtain ⟨m, u, hrun, sentEnable, hbegin, hopen⟩ := writePage_opened a data s h
  obtain ⟨-, -, -, hn, -⟩ := canBegin_parts h
  obtain ⟨-, -, -, hmn, hawake⟩ := canBegin_parts hbegin
  have hm : m.cfg = s.cfg := State.kept_cfg sentEnable.kept
  have hsafe' : m.cfg.strict = false ∨ m.flash.bad = true ∨ ¬ meetsUnerased m.cfg m.flash.mem a.toNat data := by
    rw [hm, sentEnable.flash, FlashPart.writeEnable_frame_mem _ _ hn]
    exact hsafe.imp_right (Or.imp_left (FlashPart.writeEnable_frame_bad _ _))
  have hunbroken : (u.flash.deselect u.cfg).bad = u.flash.bad := by
    rw [State.kept_cfg hopen.kept, hopen.flash, ← hm]
    exact FlashPart.write_frame_unbroken m.cfg m.flash a data hmn hawake hsafe'
  obtain ⟨hdeselect, hsent⟩ := hopen.close_unbroken hunbroken
  exact ⟨m, _, hrun.trans hdeselect, sentEnable, hsent⟩

/-- The close of a write frame clears WE (`10_state.md` R25). -/
theorem weAfterClose_write (opWrite : Byte) (we : Bool) : weAfterClose opWrite .cmdOpen opWrite we = false := by
  simp [weAfterClose]

end Sys2Proof.Machine
end

section
/-! PROOFS. Family 42, the address translator: the save region (`42_address_dispatch.md` R164, R165). -/

namespace Sys2Proof.Machine

/-- Only a misuse tells what was given, so a body without one ends alike under every OP. -/
theorem runCommand_eq_of_not_misuse {body : State → Res Resp} {s : State} (h : ∀ t, body s ≠ .halt .misuse t)
    (op op' : Byte) : runCommand op body s = runCommand op' body s := by
  rw [runCommand, runCommand]
  cases hbody : body s with
  | ok v t => rfl
  | halt why t =>
    cases why with
    | misuse => exact absurd hbody (h t)
    | _ => rfl

theorem andRespond0_not_misuse {r : Res Unit} (h : ∀ t, r ≠ .halt .misuse t) (t : State) :
    andRespond0 r ≠ .halt .misuse t := by
  cases r with
  | ok u v => simp [andRespond0]
  | halt why v => simpa [andRespond0] using h t

/-- Settles O39: both commands are the primitive at the save page's address, under another OP that no verdict shows. -/
theorem saveRegionEraseAndWrite : Obligations.SaveRegionEraseAndWrite := by
  intro p data s _
  rw [exec_erasesaveblock, exec_writesavepage]
  refine ⟨fun hbegin hinited => ?_, fun hphase => ⟨?_, ?_⟩, fun hphase huninit => ⟨?_, ?_⟩⟩
  · obtain ⟨-, hphase, -⟩ := canBegin_parts hbegin
    have hpage := toSavePage_inited p hinited
    rw [translatingCommand_translated hphase hpage, translatingCommand_translated hphase hpage]
    obtain ⟨m, t, runErase, enable, erase⟩ := eraseBlock_run (savePageAddr s.savePage p) s hbegin
    refine ⟨savePageAddr s.savePage p, savePageAddr_toNat _ _, ?_, ?_, ⟨m, t.respond 0, ?_, enable, erase.respond 0, ?_⟩,
      fun hsafe => ?_⟩
    · rw [runCommand_dataless_ok runErase]
      exact (runCommand_dataless_ok (action := eraseBlock _) runErase).symm
    · rw [exec, execWritepage]
      exact runCommand_eq_of_not_misuse (andRespond0_not_misuse (writePage_not_misuse _ data hbegin)) _ _
    · exact runCommand_dataless_ok runErase
    · rw [State.respond_we, erase.we, weAfterClose_erase]
    · obtain ⟨m, t, runWrite, enable, write⟩ := writePage_run (savePageAddr s.savePage p) data s hbegin hsafe
      refine ⟨m, t.respond 0, runCommand_dataless_ok runWrite, enable, write.respond 0, ?_⟩
      rw [State.respond_we, write.we, State.kept_cfg enable.kept, weAfterClose_write]
  · exact translatingCommand_misuse hphase
  · exact translatingCommand_misuse hphase
  · exact translatingCommand_uninit hphase (toSavePage_uninit p huninit)
  · exact translatingCommand_uninit hphase (toSavePage_uninit p huninit)

end Sys2Proof.Machine
end

section
/-! PROOFS. Family 43, the bitmap blitter: the bottom-row mask (`43_blitter.md` R189). -/

namespace Sys2Proof.Machine

/-- Shifting the full byte right by `n` keeps its `8 - n` lowest bits, the upper rows of a page. -/
theorem getLsbD_fullByte_shiftRight (n k : Nat) : ((0xFF : Byte) >>> n).getLsbD k = decide (n + k < 8) := by
  have hfull : (0xFF : Byte) = BitVec.allOnes 8 := rfl
  rw [hfull, BitVec.getLsbD_ushiftRight, BitVec.getLsbD_allOnes]

/-- VALID_ROWS keeps the rows the height reaches; a height of whole pages keeps all eight. -/
theorem bottomMask_validRows_getLsbD (bh : Int) (k : Nat) (hk : k < 8) :
    (bottomMask .validRows bh).getLsbD k = decide (bh % 8 = 0 ∨ (k : Int) < bh % 8) := by
  rw [bottomMask, getLsbD_fullByte_shiftRight, decide_eq_decide]
  omega

/-- AS_WRITTEN drops as many rows as the last page should keep: none where the height is of whole pages. -/
theorem bottomMask_asWritten_getLsbD (bh : Int) (k : Nat) :
    (bottomMask .asWritten bh).getLsbD k = decide ((k : Int) < 8 - bh % 8) := by
  rw [bottomMask, getLsbD_fullByte_shiftRight, decide_eq_decide]
  omega

@[simp] theorem geometry_bottom (cfg : Config) (x y bw bh : Int) (addr : Addr) (frame : Byte) (masked : Bool) :
    (geometry cfg x y bw bh addr frame masked).bottom = bottomMask cfg.bottomMask bh := rfl

theorem rowMask_eq (b : Blit) (srcRow : Int) :
    rowMask b srcRow = if srcRow = b.rpf - 1 ∧ b.bh % 8 ≠ 0 then b.bottom else 0xFF := rfl

/-- Settles O53: each variant is the full byte shifted right, by the rows below the height or by the height's remainder. -/
theorem bottomRowMask : Obligations.BottomRowMask :=
  ⟨fun bh k hk => ⟨bottomMask_validRows_getLsbD bh k hk, bottomMask_asWritten_getLsbD bh k⟩, geometry_bottom, rowMask_eq⟩

end Sys2Proof.Machine
end

section
/-! PROOFS. The encodings (`30_encoding.md`): the operand formats of R95 read back, the wire frames of R91 to R93, the
decoder against the encoder, and the operand bits that a command does not use (R103). -/

namespace Sys2Proof

open Sys2Proof.Laws.EncodedOpcode (op_commandWord)
open Sys2Proof.Machine (usedBits)

/-! ## The fields of a command word, format by format (R95) -/

/-- A field below the OP is read from the operand field. -/
theorem field_commandWord (op : Byte) (operands : BitVec 72) {start len : Nat} (h : start + len ≤ 72) :
    BitVec.extractLsb' start len (commandWord op operands) = BitVec.extractLsb' start len operands :=
  BitVec.extractLsb'_append_eq_of_add_le h

@[simp] theorem byte0_formatB (op b : Byte) : CmdWord.byte0 (commandWord op (formatB b)) = b :=
  (field_commandWord _ _ (by decide)).trans BitVec.extractLsb'_append_eq_right

@[simp] theorem addr_formatA (op : Byte) (a : Addr) : CmdWord.addr (commandWord op (formatA a)) = a :=
  (field_commandWord _ _ (by decide)).trans BitVec.extractLsb'_append_eq_right

@[simp] theorem addr_formatOA (op opcode : Byte) (a : Addr) : CmdWord.addr (commandWord op (formatOA opcode a)) = a :=
  (field_commandWord _ _ (by decide)).trans BitVec.extractLsb'_append_eq_right

@[simp] theorem byte3_formatOA (op opcode : Byte) (a : Addr) :
    CmdWord.byte3 (commandWord op (formatOA opcode a)) = opcode :=
  ((field_commandWord _ _ (by decide)).trans (BitVec.extractLsb'_append_eq_of_le (by decide))).trans
    BitVec.extractLsb'_append_eq_right

@[simp] theorem addr_formatX (op index size : Byte) (a : Addr) :
    CmdWord.addr (commandWord op (formatX index size a)) = a :=
  (field_commandWord _ _ (by decide)).trans BitVec.extractLsb'_append_eq_right

@[simp] theorem byte3_formatX (op index size : Byte) (a : Addr) :
    CmdWord.byte3 (commandWord op (formatX index size a)) = size :=
  ((field_commandWord _ _ (by decide)).trans (BitVec.extractLsb'_append_eq_of_le (by decide))).trans
    BitVec.extractLsb'_append_eq_right

@[simp] theorem byte4_formatX (op index size : Byte) (a : Addr) :
    CmdWord.byte4 (commandWord op (formatX index size a)) = index :=
  (((field_commandWord _ _ (by decide)).trans (BitVec.extractLsb'_append_eq_of_le (by decide))).trans
    (BitVec.extractLsb'_append_eq_of_le (by decide))).trans BitVec.extractLsb'_append_eq_right

@[simp] theorem page0_formatP (op : Byte) (p : Page) : CmdWord.page0 (commandWord op (formatP p)) = p :=
  (field_commandWord _ _ (by decide)).trans BitVec.extractLsb'_append_eq_right

@[simp] theorem page0_formatI (op : Byte) (d s : Page) : CmdWord.page0 (commandWord op (formatI d s)) = s :=
  (field_commandWord _ _ (by decide)).trans BitVec.extractLsb'_append_eq_right

@[simp] theorem page1_formatI (op : Byte) (d s : Page) : CmdWord.page1 (commandWord op (formatI d s)) = d :=
  ((field_commandWord _ _ (by decide)).trans (BitVec.extractLsb'_append_eq_of_le (by decide))).trans
    BitVec.extractLsb'_append_eq_right

section
variable (op : Byte) (x y : Half) (a : Addr) (frame mode : Byte)

@[simp] theorem byte0_formatD : CmdWord.byte0 (commandWord op (formatD x y a frame mode)) = mode :=
  (field_commandWord _ _ (by decide)).trans BitVec.extractLsb'_append_eq_right

@[simp] theorem byte1_formatD : CmdWord.byte1 (commandWord op (formatD x y a frame mode)) = frame :=
  ((field_commandWord _ _ (by decide)).trans (BitVec.extractLsb'_append_eq_of_le (by decide))).trans
    BitVec.extractLsb'_append_eq_right

@[simp] theorem drawAddr_formatD : CmdWord.drawAddr (commandWord op (formatD x y a frame mode)) = a :=
  (((field_commandWord _ _ (by decide)).trans (BitVec.extractLsb'_append_eq_of_le (by decide))).trans
    (BitVec.extractLsb'_append_eq_of_le (by decide))).trans BitVec.extractLsb'_append_eq_right

@[simp] theorem drawY_formatD : CmdWord.drawY (commandWord op (formatD x y a frame mode)) = y :=
  ((((field_commandWord _ _ (by decide)).trans (BitVec.extractLsb'_append_eq_of_le (by decide))).trans
    (BitVec.extractLsb'_append_eq_of_le (by decide))).trans (BitVec.extractLsb'_append_eq_of_le (by decide))).trans
    BitVec.extractLsb'_append_eq_right

@[simp] theorem drawX_formatD : CmdWord.drawX (commandWord op (formatD x y a frame mode)) = x :=
  ((((field_commandWord _ _ (by decide)).trans (BitVec.extractLsb'_append_eq_of_le (by decide))).trans
    (BitVec.extractLsb'_append_eq_of_le (by decide))).trans (BitVec.extractLsb'_append_eq_of_le (by decide))).trans
    BitVec.extractLsb'_append_eq_left

end

/-! ## Decoding what was encoded -/

theorem bareCommand_nil (op : Byte) (i : Instr) : bareCommand op [] i = .ok i := rfl

theorem pagedCommand_of_length {op : Byte} {payload : List Byte} (i : Instr) (h : payload.length = pageBytes) :
    pagedCommand op payload i = .ok i := if_pos h

/-- The three address bytes of a frame join to the address (R98). -/
theorem addrBytes_join (a : Addr) :
    (BitVec.extractLsb' 16 8 a ++ BitVec.extractLsb' 8 8 a ++ BitVec.extractLsb' 0 8 a : BitVec 24) = a := by
  have upper : (BitVec.extractLsb' 16 8 a ++ BitVec.extractLsb' 8 8 a : BitVec 16) = BitVec.extractLsb' 8 16 a :=
    BitVec.extractLsb'_append_extractLsb'_eq_extractLsb' rfl
  rw [upper]
  exact (BitVec.extractLsb'_append_extractLsb'_eq_extractLsb' rfl).trans BitVec.extractLsb'_eq_self

theorem frameW4_addrBytes (opcode : Byte) (a : Addr) (more : List Byte)
    (mk : Addr → List Byte → Except DecodeError Instr) : frameW4 opcode (addrBytes a ++ more) mk = mk a more :=
  congrArg (mk · more) (addrBytes_join a)

/-- An opcode of R101 selects its row; OP_WRITE does where it is told apart from the other eight. -/
theorem decodeFrame_write {opw : Byte} (h : opw ∉ WireOp.others) (rest : List Byte) :
    decodeFrame opw (opw :: rest) = frameW4 opw rest fun a more => .ok (.opWrite a more) := by
  simp only [WireOp.others, List.mem_cons, List.not_mem_nil, or_false, not_or] at h
  obtain ⟨h1, h2, h3, h4, h5, h6, h7, h8⟩ := h
  simp only [decodeFrame, h1, h2, h3, h4, h5, h6, h7, h8, if_false, if_true]

/-- Settles O1: OP, or the opcode byte, selects the row, and the row's format reads its operands back. -/
theorem decodeInvertsEncode : Obligations.DecodeInvertsEncode := by
  intro opw i hopw hwf
  cases i with
  | writepage addr data =>
    have hlength : data.length = pageBytes := beq_iff_eq.mp hwf
    simp [decode, encode, decodeCommand, op_commandWord, pagedCommand_of_length _ hlength]
  | writesavepage logicalPage data =>
    have hlength : data.length = pageBytes := beq_iff_eq.mp hwf
    simp [decode, encode, decodeCommand, op_commandWord, pagedCommand_of_length _ hlength]
  | opReleasePd => rfl
  | opPowerDown => rfl
  | opWriteEnable => rfl
  | opRead addr dummies => exact frameW4_addrBytes WireOp.read addr dummies fun a more => .ok (.opRead a more)
  | opWrite addr data => exact (decodeFrame_write hopw _).trans (frameW4_addrBytes opw addr data _)
  | opErase addr => exact congrArg (Except.ok ∘ Instr.opErase) (addrBytes_join addr)
  | opJedecId dummies => rfl
  | opReadStatus1 dummies => rfl
  | opReadStatus2 dummies => rfl
  | _ => simp [decode, encode, decodeCommand, op_commandWord, bareCommand_nil]

/-! ## Bits that a command does not use (R103) -/

/-- Words that agree under a mask agree in a field that the mask covers. -/
theorem field_of_masked {w v mask : CmdWord} (h : w &&& mask = v &&& mask) {start len : Nat}
    (covers : ∀ i, i < len → mask.getLsbD (start + i) = true) :
    BitVec.extractLsb' start len w = BitVec.extractLsb' start len v := by
  refine BitVec.eq_of_getLsbD_eq fun i hi => ?_
  have hbit := congrArg (BitVec.getLsbD · (start + i)) h
  simpa [hi, covers i hi] using hbit

section
variable {w v mask : CmdWord} (h : w &&& mask = v &&& mask)
include h

theorem byte0_of_masked (covers : ∀ i, i < 8 → mask.getLsbD (0 + i) = true) : w.byte0 = v.byte0 :=
  field_of_masked h covers
theorem byte1_of_masked (covers : ∀ i, i < 8 → mask.getLsbD (8 + i) = true) : w.byte1 = v.byte1 :=
  field_of_masked h covers
theorem byte3_of_masked (covers : ∀ i, i < 8 → mask.getLsbD (24 + i) = true) : w.byte3 = v.byte3 :=
  field_of_masked h covers
theorem byte4_of_masked (covers : ∀ i, i < 8 → mask.getLsbD (32 + i) = true) : w.byte4 = v.byte4 :=
  field_of_masked h covers
theorem addr_of_masked (covers : ∀ i, i < 24 → mask.getLsbD (0 + i) = true) : w.addr = v.addr :=
  field_of_masked h covers
theorem page0_of_masked (covers : ∀ i, i < 16 → mask.getLsbD (0 + i) = true) : w.page0 = v.page0 :=
  field_of_masked h covers
theorem page1_of_masked (covers : ∀ i, i < 16 → mask.getLsbD (16 + i) = true) : w.page1 = v.page1 :=
  field_of_masked h covers
theorem drawX_of_masked (covers : ∀ i, i < 16 → mask.getLsbD (56 + i) = true) : w.drawX = v.drawX :=
  field_of_masked h covers
theorem drawY_of_masked (covers : ∀ i, i < 16 → mask.getLsbD (40 + i) = true) : w.drawY = v.drawY :=
  field_of_masked h covers
theorem drawAddr_of_masked (covers : ∀ i, i < 24 → mask.getLsbD (16 + i) = true) : w.drawAddr = v.drawAddr :=
  field_of_masked h covers

end

/-- The decoder reads the OP and the bits its format uses. -/
theorem decodeCommand_of_used {w v : CmdWord} (payload : List Byte) (hop : w.op = v.op)
    (hused : w &&& usedBits w.op = v &&& usedBits w.op) : decodeCommand w payload = decodeCommand v payload := by
  rw [hop] at hused
  rw [decodeCommand, decodeCommand, hop]
  split
  all_goals
    rename_i hrow
    simp only [usedBits, hrow] at hused
    simp (disch := decide) only [byte0_of_masked hused, byte1_of_masked hused, byte3_of_masked hused,
      byte4_of_masked hused, addr_of_masked hused, page0_of_masked hused, page1_of_masked hused,
      drawX_of_masked hused, drawY_of_masked hused, drawAddr_of_masked hused]

namespace Machine

/-! ### `mode[7:5]` -/

/-- The mode word without its unused bits. -/
def flagsOf (mode : Byte) : Byte := mode &&& 0x1F

section
variable (mode : Byte)

@[simp] theorem modeWhiteBlack_flagsOf : modeWhiteBlack (flagsOf mode) = modeWhiteBlack mode := by
  simp [modeWhiteBlack, flagsOf]
@[simp] theorem modeInvert_flagsOf : modeInvert (flagsOf mode) = modeInvert mode := by
  simp [modeInvert, flagsOf]
@[simp] theorem modeBlack_flagsOf : modeBlack (flagsOf mode) = modeBlack mode := by
  simp [modeBlack, flagsOf]
@[simp] theorem modeReverse_flagsOf : modeReverse (flagsOf mode) = modeReverse mode := by
  simp [modeReverse, flagsOf]
@[simp] theorem modeMasked_flagsOf : modeMasked (flagsOf mode) = modeMasked mode := by
  simp [modeMasked, flagsOf]

theorem drawColumn_flagsOf (b : Blit) (row : Byte) (c : Nat) (s : State) :
    drawColumn b (flagsOf mode) row c s = drawColumn b mode row c s := by
  simp [drawColumn, fetchMask, composeColumn, composeAt, compose, pixelByte, effectiveMask, selfByte]

theorem drawColumns_flagsOf (b : Blit) (row : Byte) (count c : Nat) (s : State) :
    drawColumns b (flagsOf mode) row count c s = drawColumns b mode row count c s := by
  induction count generalizing c s with
  | zero => rfl
  | succ k ih => simp only [drawColumns, drawColumn_flagsOf, ih]

theorem drawRows_flagsOf (count i : Nat) (b : Blit) (s : State) :
    drawRows (flagsOf mode) count i b s = drawRows mode count i b s := by
  induction count generalizing i b s with
  | zero => rfl
  | succ k ih => simp only [drawRows, drawRow, drawColumns_flagsOf, ih]

/-- DRAWBITMAP reads its mode word through the five flags alone. -/
theorem exec_drawbitmap_flagsOf (x y : Half) (addr : Addr) (frame : Byte) (s : State) :
    exec (.drawbitmap x y addr frame (flagsOf mode)) s = exec (.drawbitmap x y addr frame mode) s := by
  simp only [exec, execDrawbitmap, drawBitmap, drawRows_flagsOf, modeMasked_flagsOf]

end

/-- Settles O2: a command depends on its OP and the bits its format uses, DRAWBITMAP on the five flags of its mode. -/
theorem unusedOperandBitsIgnored : Obligations.UnusedOperandBitsIgnored := by
  refine ⟨fun w v payload => decodeCommand_of_used payload, fun x y addr frame mode other s hflags => ?_⟩
  rw [← exec_drawbitmap_flagsOf mode, ← exec_drawbitmap_flagsOf other, flagsOf, hflags]
  rfl

end Machine

/-! ## Fixed words, and reserved ones -/

/-- Settles O3: the decoder runs on the eight words. -/
theorem writtenWordsDecode : Obligations.WrittenWordsDecode := by
  unfold Obligations.WrittenWordsDecode
  decide

/-- An OP outside the table is reserved, whatever else the word holds (R102). -/
theorem decodeCommand_reserved {w : CmdWord} (payload : List Byte) (h : Machine.definedOps.contains w.op = false) :
    decodeCommand w payload = .error (.reservedCommand w.op) := by
  have houtside : ∀ op ∈ Machine.definedOps, w.op ≠ op := fun op hop same => by
    rw [List.contains_eq_mem, decide_eq_false_iff_not, same] at h
    exact h hop
  have hrow : ∀ op ∈ Machine.definedOps, w.op.toNat ≠ op.toNat := fun op hop same =>
    houtside op hop (BitVec.eq_of_toNat_eq same)
  simp only [Machine.definedOps, List.forall_mem_cons] at hrow
  rw [decodeCommand]
  split
  case h_27 => rfl
  all_goals simp_all

end Sys2Proof
end

section
/-! PROOFS. The step: HOST's next move (`00_scope.md` R5; log 2), a machine that holds a verdict, the reset event
(`70_reset_and_hazards.md` R250), and the moves that give no command. -/

namespace Sys2Proof.Machine

/-! ## One step, by HOST's next move -/

theorem step_reset {rest : List HostMove} {s : State} (h : s.host = .reset :: rest) :
    step s = .next (s.withHost rest).resetEvent := by
  rw [step, turn, h]
  rfl

/-- A machine that holds a verdict answers it unless HOST resets. -/
theorem step_stopped {s : State} {verdict : Host.Outcome State Fault Refusal}
    (hreset : ∀ rest : List HostMove, s.host ≠ .reset :: rest) (h : s.stopped = some verdict) : step s = verdict := by
  rw [step, turn]
  split
  · exact absurd ‹_› (hreset _)
  · rw [h]

/-- A machine that holds none takes HOST's next move. -/
theorem step_move {m : HostMove} {rest : List HostMove} {s : State} (hrun : s.stopped = none)
    (h : s.host = m :: rest) : step s = takeMove m (s.withHost rest) := by
  rw [step, turn, h, hrun]
  cases m <;> rfl

theorem step_noMove {s : State} (hrun : s.stopped = none) (h : s.host = []) : step s = .next (shifterStep s) := by
  rw [step, turn, h, hrun]

/-! ## Giving an encoding -/

theorem runGiven_ok {what : Encoded} {i : Instr} {s : State} (h : decode s.cfg.opWrite what = .ok i) :
    runGiven what s = exec i s := by
  rw [runGiven, h]

theorem runGiven_error {what : Encoded} {e : DecodeError} {s : State} (h : decode s.cfg.opWrite what = .error e) :
    runGiven what s = .next (s.refuse e) := by
  rw [runGiven, h]

/-- Settles O4: a reserved OP decodes to no instruction, and the encoding is refused. -/
theorem reservedCommandRefused : Obligations.ReservedCommandRefused := by
  intro w payload rest s hreserved hrun hmove
  rw [step_move hrun hmove]
  exact runGiven_error (what := .command w payload) (decodeCommand_reserved payload hreserved)

/-- Settles O5: the move is taken from the agenda, and the decoded instruction runs. -/
theorem stepRunsDecodedInstruction : Obligations.StepRunsDecodedInstruction := by
  intro what i rest s hrun hmove hdecoded
  rw [step_move hrun hmove]
  exact runGiven_ok hdecoded

/-! ## Verdicts and the reset event -/

/-- Settles O6: each mark is a verdict that the step answers. -/
theorem markedMachineStops : Obligations.MarkedMachineStops := by
  intro s hreset
  refine ⟨fun hstuck => ?_, fun f hstuck hfault => ?_, fun r hstuck hfault hrefused => ?_⟩
  · exact step_stopped hreset (by simp [State.stopped, hstuck])
  · exact step_stopped hreset (by simp [State.stopped, hstuck, hfault])
  · exact step_stopped hreset (by simp [State.stopped, hstuck, hfault, hrefused])

/-- Settles O7: a reset is taken before any verdict is looked at, and `State.resetEvent` is the state it leaves. -/
theorem resetEventRestarts : Obligations.ResetEventRestarts := by
  intro rest s hmove
  rw [step_reset hmove]
  rfl

/-- Settles O10. -/
theorem resetValues : Obligations.ResetValues := by
  unfold Obligations.ResetValues
  decide

/-- Settles O11: the invariant runs on the reset state. -/
theorem resetSatisfiesInvariant : Obligations.ResetSatisfiesInvariant := by
  unfold Obligations.ResetSatisfiesInvariant
  decide

/-! ## The moves that give no command -/

theorem shifterStep_enabled {s : State} (h : s.inflight = true ∧ s.cfg.busOk = true) : shifterStep s = s.shifted := by
  rw [shifterStep, if_pos (by simp [h])]

theorem shifterStep_disabled {s : State} (h : s.inflight = false ∨ s.cfg.busOk = false) : shifterStep s = s := by
  rw [shifterStep, if_neg (by rw [Bool.and_eq_true]; exact fun g => by simp [g] at h)]

/-- Settles O8: both idle turns are SHIFTER's step, which acts exactly where it is enabled. -/
theorem idleTurnCompletesTransfer : Obligations.IdleTurnCompletesTransfer := by
  intro rest s hrun
  refine ⟨fun henabled => ⟨fun hmove => ?_, fun hmove => ?_⟩, fun hdisabled => ⟨fun hmove => ?_, fun hmove => ?_⟩⟩
  · rw [step_noMove hrun hmove, shifterStep_enabled henabled]
    rfl
  · rw [step_move hrun hmove, takeMove, shifterStep_enabled (s := s.withHost rest) henabled]
    rfl
  · rw [step_noMove hrun hmove, shifterStep_disabled hdisabled]
  · rw [step_move hrun hmove, takeMove, shifterStep_disabled (s := s.withHost rest) hdisabled]
    rfl

/-- Settles O9: an index inside the framebuffer is written, another one stops the machine. -/
theorem hostWritesFramebuffer : Obligations.HostWritesFramebuffer := by
  intro i v rest s hrun hmove
  rw [step_move hrun hmove, takeMove, hostFbWrite]
  refine ⟨fun hinside => ?_, fun houtside => ?_⟩
  · rw [if_pos (show i < (s.withHost rest).cfg.fbBytes from hinside)]
    exact ⟨_, rfl, fun a => fbWrite_read i a v _, rfl⟩
  · rw [if_neg (show ¬ i < (s.withHost rest).cfg.fbBytes from Nat.not_lt.mpr houtside)]

end Sys2Proof.Machine
end

section
/-! PROOFS. The phases (`10_state.md` R36; `41_protocol_engine.md` R147): what the invariant says in one phase, the phase in
which every operation that runs to its end leaves the engine, and the table of the phases. -/

namespace Sys2Proof.Machine

/-! ## Operations that run to their end -/

/-- Where the operation runs to its end, the state it answers has the property. -/
def Res.Ensures {α : Type} (r : Res α) (P : State → Prop) : Prop := ∀ (a : α) (t : State), r = .ok a t → P t

theorem Res.ensures_ok {α : Type} {a : α} {s : State} {P : State → Prop} (h : P s) : (Res.ok a s).Ensures P := by
  rintro b t ⟨⟩
  exact h

theorem Res.ensures_halt {α : Type} {why : Stop} {s : State} {P : State → Prop} : (Res.halt why s : Res α).Ensures P := by
  rintro b t ⟨⟩

/-- A sequence runs to its end exactly where its parts do. -/
theorem Res.bind_eq_ok {α β : Type} {r : Res α} {f : α → State → Res β} {b : β} {u : State} :
    r.bind f = .ok b u ↔ ∃ a t, r = .ok a t ∧ f a t = .ok b u := by
  cases r with
  | ok a t => simp
  | halt why t => simp

theorem Res.Ensures.bind {α β : Type} {r : Res α} {f : α → State → Res β} {P Q : State → Prop} (h : r.Ensures P)
    (g : ∀ (a : α) (t : State), P t → (f a t).Ensures Q) : (r.bind f).Ensures Q := by
  intro b u hrun
  obtain ⟨a, t, hfirst, hsecond⟩ := Res.bind_eq_ok.mp hrun
  exact g a t (h a t hfirst) b u hsecond

theorem require_ensures {p : Bool} {s : State} {P : State → Prop} (h : p = true → P s) : (require p s).Ensures P := by
  intro u t hrun
  obtain ⟨hp, rfl⟩ := require_ok hrun
  exact h hp

theorem andRespond0_ensures {r : Res Unit} {P : State → Prop} (h : r.Ensures P) : (andRespond0 r).Ensures P :=
  h.bind fun _ _ => Res.ensures_ok

/-! ## The invariant in one phase -/

/-- What the bus invariants (`10_state.md` R36, items 1 to 3) and the agreement of engine and part say in phase `p`. -/
structure InPhase (p : PState) (s : State) : Prop where
  pstate : s.pstate = p
  cs : s.cs = (p != .idle)
  idleShifter : p ≠ .reading → s.inflight = false
  readOpcode : p = .reading → s.cmdop = WireOp.read
  noByte : canOpen p = true → s.flash.n = 0
  firstByte : canOpen p = false → 1 ≤ s.flash.n ∧ (s.flash.bad = true ∨ s.flash.op = s.cmdop)

theorem InPhase.canOpen_eq {p : PState} {s : State} (h : InPhase p s) : canOpen s.pstate = canOpen p := by
  rw [h.pstate]

/-- The invariants of a state without a verdict are those of its phase and of its trace. -/
theorem busInv_frameInv_iff (s : State) :
    (s.busInv && s.frameInv) = true ↔ InPhase s.pstate s ∧ traceLevel false s.trace = some s.cs := by
  have hbus : s.busInv = true ↔ s.cs = (s.pstate != .idle) ∧ (s.pstate = .reading → s.cmdop = WireOp.read) ∧
      (s.inflight = true → s.pstate = .reading) ∧ traceLevel false s.trace = some s.cs := by
    simp only [State.busInv, Bool.and_eq_true, Bool.or_eq_true, Bool.not_eq_true', beq_iff_eq,
      ← imp_iff_not_or, and_assoc, ← Bool.not_eq_true]
  have hframe : s.frameInv = true ↔ (canOpen s.pstate = true → s.flash.n = 0) ∧
      (canOpen s.pstate = false → 1 ≤ s.flash.n ∧ (s.flash.bad = true ∨ s.flash.op = s.cmdop)) := by
    rw [State.frameInv]
    cases canOpen s.pstate <;> simp
  rw [Bool.and_eq_true, hbus, hframe]
  constructor
  · rintro ⟨⟨hcs, hread, hinflight, htrace⟩, hno, hfirst⟩
    refine ⟨⟨rfl, hcs, fun hp => ?_, hread, hno, hfirst⟩, htrace⟩
    exact Bool.eq_false_iff.mpr fun hi => hp (hinflight hi)
  · rintro ⟨h, htrace⟩
    refine ⟨⟨h.cs, h.readOpcode, fun hi => ?_, htrace⟩, h.noByte, h.firstByte⟩
    exact Classical.byContradiction fun hp => by simp [h.idleShifter hp] at hi

theorem State.inv_clear {s : State} (h : s.inv = true) (hclear : s.clear = true) :
    InPhase s.pstate s ∧ traceLevel false s.trace = some s.cs ∧ s.blit = none := by
  simp only [State.inv, hclear, Bool.not_true, Bool.false_or, Bool.and_eq_true, Option.isNone_iff_eq_none] at h
  obtain ⟨-, ⟨hbus, hframe⟩, hblit⟩ := h
  obtain ⟨hphase, htrace⟩ := (busInv_frameInv_iff s).mp (by rw [hbus, hframe]; rfl)
  exact ⟨hphase, htrace, hblit⟩

/-! ## The bus primitives -/

theorem select_inPhase {p : PState} {s : State} (h : InPhase p s) :
    InPhase (if p = .idle then .selected else p) (select s) := by
  cases p with
  | idle =>
    have hcs : s.cs = false := h.cs
    rw [select_of_deasserted hcs]
    exact ⟨rfl, rfl, fun _ => h.idleShifter (by decide), nofun, fun _ => rfl, nofun⟩
  | _ =>
    rw [select_of_asserted h.cs]
    exact h

theorem select_opens {p : PState} {s : State} (h : InPhase p s) (hopen : canOpen p = true) :
    InPhase .selected (select s) := by
  have hselect := select_inPhase h
  cases p with
  | idle => exact hselect
  | selected => exact hselect
  | _ => cases hopen

/-- In an open frame of opcode `op`, no pipelined read begun. -/
def OpenFrame (op : Byte) (s : State) : Prop := InPhase .cmdOpen s ∧ s.cmdop = op

theorem xfer_idle (b : Byte) {s : State} (h : InPhase .idle s) : (xfer b s).Ensures (InPhase .idle) := by
  intro r t hrun
  obtain ⟨-, rfl, -⟩ := xfer_ok hrun
  have hcs : s.cs = false := h.cs
  exact ⟨by simp [h.pstate], by simp [hcs], fun _ => rfl, nofun, fun _ => by simpa [hcs] using h.noByte rfl, nofun⟩

/-- A byte of an open frame leaves the frame's opcode at the part. -/
theorem issued_firstByte (b : Byte) {s : State} (hcs : s.cs = true)
    (h : 1 ≤ s.flash.n ∧ (s.flash.bad = true ∨ s.flash.op = s.cmdop)) :
    1 ≤ (s.issued b).flash.n ∧ ((s.issued b).flash.bad = true ∨ (s.issued b).flash.op = (s.issued b).cmdop) := by
  obtain ⟨hn, hfirst⟩ := h
  simp only [State.issued_flash, hcs, if_true, State.issued_cmdop, FlashPart.exchange_n]
  refine ⟨Nat.succ_pos _, hfirst.imp (fun hbad => ?_) fun hsame => ?_⟩
  · simp [FlashPart.exchange_bad, hbad]
  · rw [FlashPart.exchange_op, if_neg (by omega), hsame]

theorem xfer_openFrame (b : Byte) {op : Byte} {s : State} (h : OpenFrame op s) : (xfer b s).Ensures (OpenFrame op) := by
  intro r t hrun
  obtain ⟨-, rfl, -⟩ := xfer_ok hrun
  obtain ⟨h, hop⟩ := h
  have hcs : s.cs = true := h.cs
  exact ⟨⟨by simp [h.pstate], by simp [hcs], fun _ => rfl, nofun, nofun,
    fun _ => issued_firstByte b hcs (h.firstByte rfl)⟩, by simpa using hop⟩

/-- The first byte of a frame is its opcode, at the part and in CMDOP (`10_state.md` R24). -/
theorem xferTracked_selected (b : Byte) {s : State} (h : InPhase .selected s) :
    (xferTracked b s).Ensures (OpenFrame b) := by
  intro r t hrun
  rw [xferTracked, if_pos h.pstate] at hrun
  obtain ⟨-, rfl, -⟩ := xfer_ok hrun
  have hcs : s.cs = true := h.cs
  have hfirst : (s.flash.exchange s.cfg b).2.bad = true ∨ (s.flash.exchange s.cfg b).2.op = b := by
    cases hbad : s.flash.bad
    · exact .inr (by rw [FlashPart.exchange_op, if_pos ⟨hbad, h.noByte rfl⟩])
    · exact .inl (by simp [FlashPart.exchange_bad, hbad])
  exact ⟨⟨by simp, by simp [hcs], fun _ => rfl, nofun, nofun, fun _ => ⟨by simp [hcs], by simpa [hcs] using hfirst⟩⟩, by simp⟩

theorem xferTracked_openFrame (b : Byte) {op : Byte} {s : State} (h : OpenFrame op s) :
    (xferTracked b s).Ensures (OpenFrame op) := by
  rw [xferTracked, if_neg (by simp [h.1.pstate])]
  exact xfer_openFrame b h

theorem xferTracked_idle (b : Byte) {s : State} (h : InPhase .idle s) : (xferTracked b s).Ensures (InPhase .idle) := by
  rw [xferTracked, if_neg (by simp [h.pstate])]
  exact xfer_idle b h

theorem sendAll_openFrame (bytes : List Byte) {op : Byte} {s : State} (h : OpenFrame op s) :
    (sendAll bytes s).Ensures (OpenFrame op) := by
  induction bytes generalizing s with
  | nil => exact Res.ensures_ok h
  | cons b rest ih => exact (xfer_openFrame b h).bind fun _ _ ht => ih ht

theorem deselect_inPhase {p : PState} {s : State} (h : InPhase p s) : (deselect s).Ensures (InPhase .idle) := by
  intro u t hrun
  obtain ⟨hi, rfl⟩ := deselect_ok hrun
  split
  · exact ⟨rfl, rfl, fun _ => hi, nofun, fun _ => rfl, nofun⟩
  · rename_i hcs
    have hp : p = .idle := by simpa [h.cs] using hcs
    exact hp ▸ h

/-! ## The frames -/

/-- The start of every frame: the phase is checked, chip-select asserted, the opcode sent. -/
theorem opening_openFrame {p : PState} {s : State} (op : Byte) (h : InPhase p s) :
    ((require (canOpen s.pstate) s).bind fun _ s => xferTracked op (select s)).Ensures (OpenFrame op) :=
  (require_ensures (P := fun t => InPhase .selected (select t)) fun hopen =>
    select_opens h (h.canOpen_eq ▸ hopen)).bind fun _ _ ht => xferTracked_selected op ht

theorem sendFrame_inPhase {p : PState} {s : State} (op : Byte) (rest : List Byte) (h : InPhase p s) :
    (sendFrame op rest s).Ensures (InPhase .idle) := by
  have hopening := opening_openFrame op h
  have hframe := hopening.bind fun _ _ ht => (sendAll_openFrame rest ht).bind fun _ _ hu => deselect_inPhase hu.1
  rwa [Res.bind_assoc] at hframe

theorem writeCmd_inPhase {p : PState} {s : State} (op : Byte) (h : InPhase p s) :
    (writeCmd op s).Ensures (InPhase .idle) :=
  sendFrame_inPhase op [] h

theorem seek_openFrame {p : PState} {s : State} (op : Byte) (a : Addr) (h : InPhase p s) :
    (seek op a s).Ensures (OpenFrame op) := by
  have hframe := (opening_openFrame op h).bind fun _ _ ht => sendAll_openFrame [addrHi a, addrMid a, addrLo a] ht
  rwa [Res.bind_assoc] at hframe

theorem eraseBlock_inPhase {p : PState} {s : State} (a : Addr) (h : InPhase p s) :
    (eraseBlock a s).Ensures (InPhase .idle) :=
  (writeCmd_inPhase WireOp.writeEnable h).bind fun _ _ ht => (seek_openFrame WireOp.erase a ht).bind fun _ _ hu =>
    deselect_inPhase hu.1

theorem writePage_inPhase {p : PState} {s : State} (a : Addr) (data : List Byte) (h : InPhase p s) :
    (writePage a data s).Ensures (InPhase .idle) :=
  (writeCmd_inPhase WireOp.writeEnable h).bind fun _ t ht => (seek_openFrame t.cfg.opWrite a ht).bind fun _ _ hu =>
    (sendAll_openFrame data hu).bind fun _ _ hv => deselect_inPhase hv.1

/-! ## The pipelined read -/

/-- The first dummy byte of a read frame begins the pipelined read (`41_protocol_engine.md` R132). -/
theorem issue_startReading (b : Byte) {s : State} (h : OpenFrame WireOp.read s) :
    ((issue b s).bind fun _ s => Res.ok () s.startReading).Ensures (InPhase .reading) := by
  intro u t hrun
  obtain ⟨v, w, hissue, ⟨⟩⟩ := Res.bind_eq_ok.mp hrun
  obtain ⟨-, rfl⟩ := issue_ok hissue
  obtain ⟨h, hop⟩ := h
  have hcs : s.cs = true := h.cs
  exact ⟨rfl, by simp [hcs], fun hp => absurd rfl hp, fun _ => by simp [hop], nofun,
    fun _ => issued_firstByte b hcs (h.firstByte rfl)⟩

theorem beginRead_inPhase {p : PState} {s : State} (a : Addr) (h : InPhase p s) :
    (beginRead a s).Ensures (InPhase .reading) :=
  (seek_openFrame WireOp.read a h).bind fun _ _ ht => issue_startReading dummyByte ht

theorem require_reading {p : PState} {s : State} (h : InPhase p s) :
    (require (s.pstate == .reading) s).Ensures (InPhase .reading) :=
  require_ensures fun hp => by
    have hreading : p = .reading := h.pstate ▸ beq_iff_eq.mp hp
    exact hreading ▸ h

theorem wait_reading {s : State} (h : InPhase .reading s) : (wait s).Ensures (InPhase .reading) := by
  intro u t hrun
  obtain ⟨rfl, -⟩ := wait_ok hrun
  rw [State.waited]
  split
  · exact ⟨h.pstate, h.cs, fun hp => absurd rfl hp, h.readOpcode, nofun, h.firstByte⟩
  · exact h

theorem issue_reading (b : Byte) {s : State} (h : InPhase .reading s) : (issue b s).Ensures (InPhase .reading) := by
  intro u t hrun
  obtain ⟨-, rfl⟩ := issue_ok hrun
  have hcs : s.cs = true := h.cs
  exact ⟨by simp [h.pstate], by simp [hcs], fun hp => absurd rfl hp, fun _ => by simp [h.readOpcode rfl], nofun,
    fun _ => issued_firstByte b hcs (h.firstByte rfl)⟩

/-- `ReadPending` runs only in READING, and stays there. -/
theorem readPending_inPhase {p : PState} {s : State} (h : InPhase p s) : (readPending s).Ensures (InPhase .reading) :=
  (require_reading h).bind fun _ _ ht => (wait_reading ht).bind fun _ _ hu => (issue_reading dummyByte hu).bind
    fun _ _ hv => Res.ensures_ok hv

theorem readLast_inPhase {p : PState} {s : State} (h : InPhase p s) : (readLast s).Ensures (InPhase .idle) :=
  (require_reading h).bind fun _ _ ht => (wait_reading ht).bind fun _ _ hu => (deselect_inPhase hu).bind
    fun _ _ hv => Res.ensures_ok hv

theorem readLast16_inPhase {p : PState} {s : State} (h : InPhase p s) : (readLast16 s).Ensures (InPhase .idle) :=
  (readPending_inPhase h).bind fun _ _ ht => (readLast_inPhase ht).bind fun _ _ hu => Res.ensures_ok hu

/-! ## DRAWBITMAP -/

/-- What a phase says does not mention the framebuffer, the blitter's temporaries or the history of responses. -/
theorem InPhase.congr {p : PState} {s t : State} (h : InPhase p s) (hpstate : t.pstate = s.pstate) (hcs : t.cs = s.cs)
    (hinflight : t.inflight = s.inflight) (hcmdop : t.cmdop = s.cmdop) (hflash : t.flash = s.flash) : InPhase p t where
  pstate := hpstate.trans h.pstate
  cs := hcs.trans h.cs
  idleShifter hp := hinflight.trans (h.idleShifter hp)
  readOpcode hp := hcmdop.trans (h.readOpcode hp)
  noByte hp := hflash ▸ h.noByte hp
  firstByte hp := by rw [hflash, hcmdop]; exact h.firstByte hp

theorem InPhase.respond {p : PState} {s : State} (h : InPhase p s) (v : Resp) : InPhase p (s.respond v) :=
  h.congr rfl rfl rfl rfl rfl

theorem InPhase.withBlit {p : PState} {s : State} (h : InPhase p s) (b : Option Blit) : InPhase p (s.withBlit b) :=
  h.congr rfl rfl rfl rfl rfl

/-- The translator's reads of the pages leave the state (`20_memory.md` R61, R62). -/
theorem translator_inPhase {α : Type} {p : PState} {s : State} (a : α) (why : Stop) (h : InPhase p s) :
    (if s.inited then Res.ok a s else .halt why s).Ensures (InPhase p) := by
  split
  · exact Res.ensures_ok h
  · exact Res.ensures_halt

theorem seekData_inPhase {p : PState} {s : State} (o : Addr) (h : InPhase p s) :
    (seekData o s).Ensures (InPhase .reading) :=
  (require_ensures (P := InPhase p) fun _ => h).bind fun _ _ ht => (translator_inPhase _ _ ht).bind fun a _ hu =>
    beginRead_inPhase a hu

theorem seekSave_inPhase {p : PState} {s : State} (o : Addr) (h : InPhase p s) :
    (seekSave o s).Ensures (InPhase .reading) :=
  (require_ensures (P := InPhase p) fun _ => h).bind fun _ _ ht => (translator_inPhase _ _ ht).bind fun a _ hu =>
    beginRead_inPhase a hu

theorem drawColumn_inPhase (b : Blit) (mode row : Byte) (c : Nat) {s : State} (h : InPhase .reading s) :
    (drawColumn b mode row c s).Ensures (InPhase .reading) := by
  refine (readPending_inPhase h).bind fun p t ht => Res.Ensures.bind (P := InPhase .reading) ?_ fun mp u hu => ?_
  · rw [fetchMask]
    split
    · exact readPending_inPhase ht
    · exact Res.ensures_ok ht
  · rw [composeColumn_same]
    exact Res.ensures_ok (hu.congr rfl rfl rfl rfl rfl)

theorem drawColumns_inPhase (b : Blit) (mode row : Byte) (count c : Nat) {s : State} (h : InPhase .reading s) :
    (drawColumns b mode row count c s).Ensures (InPhase .reading) := by
  induction count generalizing c s with
  | zero => exact Res.ensures_ok h
  | succ k ih => exact (drawColumn_inPhase b mode row c h).bind fun _ _ ht => ih (c + 1) ht

theorem drawRow_inPhase {p : PState} (mode : Byte) (i : Nat) (b : Blit) {s : State} (h : InPhase p s) :
    (drawRow mode i b s).Ensures (InPhase .idle) :=
  (seekData_inPhase b.src (h.withBlit _)).bind fun _ _ ht => (drawColumns_inPhase b mode _ _ 0 ht).bind fun _ _ hu =>
    (readLast_inPhase hu).bind fun _ _ hv => Res.ensures_ok hv

theorem drawRows_inPhase (mode : Byte) (count i : Nat) (b : Blit) {s : State} (h : InPhase .idle s) :
    (drawRows mode count i b s).Ensures (InPhase .idle) := by
  induction count generalizing i b s with
  | zero => exact Res.ensures_ok h
  | succ k ih => exact (drawRow_inPhase mode i b h).bind fun _ _ ht => ih (i + 1) (nextRow b) ht

theorem readHeader_inPhase {p : PState} (addr : Addr) {s : State} (h : InPhase p s) :
    (readHeader addr s).Ensures (InPhase .idle) :=
  (seekData_inPhase addr h).bind fun _ _ ht => (readPending_inPhase ht).bind fun _ _ hu =>
    (readPending_inPhase hu).bind fun _ _ hv => (readLast16_inPhase hv).bind fun _ _ hw => Res.ensures_ok hw

theorem drawBitmap_inPhase {p : PState} (x y : Half) (addr : Addr) (frame mode : Byte) {s : State} (h : InPhase p s) :
    (drawBitmap x y addr frame mode s).Ensures (InPhase .idle) := by
  refine (readHeader_inPhase addr h).bind fun wh t ht => ?_
  split
  · exact Res.ensures_ok ht
  · exact (drawRows_inPhase mode _ 0 _ ht).bind fun _ _ hu => Res.ensures_ok (hu.withBlit none)

/-! ## The table of the phases -/

/-- A command that ends without a verdict has run to its end and responded. -/
theorem runCommand_clear {op : Byte} {body : State → Res Resp} {s t : State} (h : runCommand op body s = .next t)
    (hclear : t.clear = true) : ∃ v u, body s = .ok v u ∧ t = u.respond v := by
  rw [runCommand] at h
  split at h
  · cases h
    exact ⟨_, _, ‹_›, rfl⟩
  · cases h
    rename_i why u hbody
    cases why <;> simp [State.clear, State.raise] at hclear

theorem runFrame_clear {op : Byte} {rest : List Byte} {s t : State} (h : runFrame op rest s = .next t)
    (hclear : t.clear = true) : sendFrame op rest s = .ok () t := by
  rw [runFrame] at h
  split at h
  · cases h
    assumption
  · cases h
    rename_i why u hbody
    cases why <;> simp [State.clear, State.raise] at hclear

theorem runCommand_inPhase {op : Byte} {body : State → Res Resp} {s t : State} {q : PState}
    (h : runCommand op body s = .next t) (hclear : t.clear = true) (hbody : (body s).Ensures (InPhase q)) :
    InPhase q t := by
  obtain ⟨v, u, hrun, rfl⟩ := runCommand_clear h hclear
  exact (hbody v u hrun).respond v

theorem runFrame_inPhase {p : PState} {op : Byte} {rest : List Byte} {s t : State} (h : runFrame op rest s = .next t)
    (hclear : t.clear = true) (hs : InPhase p s) : InPhase .idle t :=
  sendFrame_inPhase op rest hs () t (runFrame_clear h hclear)

theorem phaseAfterFrames_eq (p : PState) : phaseAfterFrames p = if canOpen p then some .idle else none := by
  cases p <;> rfl

theorem phaseAfterOpening_eq (p q : PState) : phaseAfterOpening p q = if canOpen p then some q else none := by
  cases p <;> rfl

theorem phaseAfterHarvest_eq (p q : PState) : phaseAfterHarvest p q = if p = .reading then some q else none := by
  cases p <;> rfl

theorem phaseAfterFrames_some {p q : PState} (h : phaseAfterFrames p = some q) : .idle = q := by
  rw [phaseAfterFrames_eq] at h
  exact Option.some.inj (Option.ite_none_right_eq_some.mp h).2

theorem phaseAfterOpening_some {p q r : PState} (h : phaseAfterOpening p q = some r) : q = r := by
  rw [phaseAfterOpening_eq] at h
  exact Option.some.inj (Option.ite_none_right_eq_some.mp h).2

theorem phaseAfterHarvest_some {p q r : PState} (h : phaseAfterHarvest p q = some r) : q = r := by
  rw [phaseAfterHarvest_eq] at h
  exact Option.some.inj (Option.ite_none_right_eq_some.mp h).2

theorem transfer_inPhase {p : PState} (b : Byte) {s : State} (h : InPhase p s) (hp : p ≠ .reading) :
    (xferTracked b s).Ensures (InPhase (if p = .selected then .cmdOpen else p)) := by
  cases p with
  | idle => exact xferTracked_idle b h
  | selected => exact fun r t hrun => (xferTracked_selected b h r t hrun).1
  | cmdOpen => exact fun r t hrun => (xferTracked_openFrame b ⟨h, rfl⟩ r t hrun).1
  | reading => exact absurd rfl hp

/-- Where the table has a phase, a command that ends without a verdict ends in it, with the invariants of that phase. -/
theorem exec_inPhase (i : Instr) {p q : PState} {s t : State} (h : InPhase p s) (hq : phaseAfter i p = some q)
    (hrun : exec i s = .next t) (hclear : t.clear = true) : InPhase q t := by
  cases i with rw [exec] at hrun
  | select =>
    cases hq
    exact runCommand_inPhase hrun hclear (Res.ensures_ok (select_inPhase h))
  | deselect =>
    have hq' : .idle = q := Option.some.inj (Option.ite_none_left_eq_some.mp hq).2
    exact hq' ▸ runCommand_inPhase hrun hclear ((require_ensures (P := InPhase p) fun _ => h).bind fun _ _ hu =>
      andRespond0_ensures (deselect_inPhase hu))
  | transfer byte =>
    have hp : p ≠ .reading := fun hp => by simp [phaseAfter, hp] at hq
    have hq' : (if p = .selected then .cmdOpen else p) = q := by simpa [phaseAfter, hp] using hq
    exact hq' ▸ runCommand_inPhase hrun hclear ((require_ensures (P := InPhase p) fun _ => h).bind fun _ _ hu =>
      (transfer_inPhase byte hu hp).bind fun _ _ hv => Res.ensures_ok hv)
  | init devDataPage devSavePage =>
    cases hq
    refine runCommand_inPhase hrun hclear ?_
    split
    · exact Res.ensures_halt
    · exact Res.ensures_ok (h.congr rfl rfl rfl rfl rfl)
  | writecmd opcode =>
    exact phaseAfterFrames_some hq ▸ runCommand_inPhase hrun hclear (andRespond0_ensures (writeCmd_inPhase opcode h))
  | writeenable => exact phaseAfterFrames_some hq ▸ runCommand_inPhase hrun hclear (andRespond0_ensures (writeCmd_inPhase _ h))
  | wake => exact phaseAfterFrames_some hq ▸ runCommand_inPhase hrun hclear (andRespond0_ensures (writeCmd_inPhase _ h))
  | sleep => exact phaseAfterFrames_some hq ▸ runCommand_inPhase hrun hclear (andRespond0_ensures (writeCmd_inPhase _ h))
  | seek opcode addr =>
    exact phaseAfterOpening_some hq ▸ runCommand_inPhase hrun hclear
      (andRespond0_ensures fun u v hseek => (seek_openFrame opcode addr h u v hseek).1)
  | beginread addr =>
    exact phaseAfterOpening_some hq ▸ runCommand_inPhase hrun hclear (andRespond0_ensures (beginRead_inPhase addr h))
  | seekdata offset =>
    exact phaseAfterOpening_some hq ▸ runCommand_inPhase hrun hclear (andRespond0_ensures (seekData_inPhase offset h))
  | seeksave offset =>
    exact phaseAfterOpening_some hq ▸ runCommand_inPhase hrun hclear (andRespond0_ensures (seekSave_inPhase offset h))
  | seekdataarray index elementSize extraOffset =>
    exact phaseAfterOpening_some hq ▸ runCommand_inPhase hrun hclear (andRespond0_ensures (seekData_inPhase _ h))
  | readpending =>
    exact phaseAfterHarvest_some hq ▸ runCommand_inPhase hrun hclear
      ((readPending_inPhase h).bind fun _ _ hu => Res.ensures_ok hu)
  | readpending16 =>
    exact phaseAfterHarvest_some hq ▸ runCommand_inPhase hrun hclear
      ((readPending_inPhase h).bind fun _ _ hu => (readPending_inPhase hu).bind fun _ _ hv => Res.ensures_ok hv)
  | readpending24 =>
    exact phaseAfterHarvest_some hq ▸ runCommand_inPhase hrun hclear
      ((readPending_inPhase h).bind fun _ _ hu => (readPending_inPhase hu).bind fun _ _ hv =>
        (readPending_inPhase hv).bind fun _ _ hw => Res.ensures_ok hw)
  | readpending32 =>
    exact phaseAfterHarvest_some hq ▸ runCommand_inPhase hrun hclear
      ((readPending_inPhase h).bind fun _ _ hu => (readPending_inPhase hu).bind fun _ _ hv =>
        (readPending_inPhase hv).bind fun _ _ hw => (readPending_inPhase hw).bind fun _ _ hx => Res.ensures_ok hx)
  | readlast =>
    exact phaseAfterHarvest_some hq ▸ runCommand_inPhase hrun hclear
      ((readLast_inPhase h).bind fun _ _ hu => Res.ensures_ok hu)
  | readlast16 =>
    exact phaseAfterHarvest_some hq ▸ runCommand_inPhase hrun hclear
      ((readLast16_inPhase h).bind fun _ _ hu => Res.ensures_ok hu)
  | readlast24 =>
    exact phaseAfterHarvest_some hq ▸ runCommand_inPhase hrun hclear
      ((readPending_inPhase h).bind fun _ _ hu => (readPending_inPhase hu).bind fun _ _ hv =>
        (readLast_inPhase hv).bind fun _ _ hw => Res.ensures_ok hw)
  | readlast32 =>
    exact phaseAfterHarvest_some hq ▸ runCommand_inPhase hrun hclear
      ((readPending_inPhase h).bind fun _ _ hu => (readPending_inPhase hu).bind fun _ _ hv =>
        (readPending_inPhase hv).bind fun _ _ hw => (readLast_inPhase hw).bind fun _ _ hx => Res.ensures_ok hx)
  | eraseblock addr =>
    exact phaseAfterFrames_some hq ▸ runCommand_inPhase hrun hclear (andRespond0_ensures (eraseBlock_inPhase addr h))
  | writepage addr data =>
    exact phaseAfterFrames_some hq ▸ runCommand_inPhase hrun hclear (andRespond0_ensures (writePage_inPhase addr data h))
  | erasesaveblock logicalPage =>
    exact phaseAfterFrames_some hq ▸ runCommand_inPhase hrun hclear ((require_ensures (P := InPhase p) fun _ => h).bind
      fun _ _ hu => (translator_inPhase _ _ hu).bind fun a _ hv => andRespond0_ensures (eraseBlock_inPhase a hv))
  | writesavepage logicalPage data =>
    exact phaseAfterFrames_some hq ▸ runCommand_inPhase hrun hclear ((require_ensures (P := InPhase p) fun _ => h).bind
      fun _ _ hu => (translator_inPhase _ _ hu).bind fun a _ hv => andRespond0_ensures (writePage_inPhase a data hv))
  | drawbitmap x y addr frame mode =>
    refine phaseAfterFrames_some hq ▸ runCommand_inPhase hrun hclear ((require_ensures (P := InPhase p) fun _ => h).bind
      fun _ u hu => ?_)
    split
    · exact andRespond0_ensures (drawBitmap_inPhase x y addr frame mode hu)
    · exact Res.ensures_halt
  | opReleasePd => exact phaseAfterFrames_some hq ▸ runFrame_inPhase hrun hclear h
  | opPowerDown => exact phaseAfterFrames_some hq ▸ runFrame_inPhase hrun hclear h
  | opWriteEnable => exact phaseAfterFrames_some hq ▸ runFrame_inPhase hrun hclear h
  | opRead addr dummies => exact phaseAfterFrames_some hq ▸ runFrame_inPhase hrun hclear h
  | opWrite addr data => exact phaseAfterFrames_some hq ▸ runFrame_inPhase hrun hclear h
  | opErase addr => exact phaseAfterFrames_some hq ▸ runFrame_inPhase hrun hclear h
  | opJedecId dummies => exact phaseAfterFrames_some hq ▸ runFrame_inPhase hrun hclear h
  | opReadStatus1 dummies => exact phaseAfterFrames_some hq ▸ runFrame_inPhase hrun hclear h
  | opReadStatus2 dummies => exact phaseAfterFrames_some hq ▸ runFrame_inPhase hrun hclear h

/-! ### Where the entry is `fault` -/

theorem phaseAfterFrames_none {p : PState} (h : phaseAfterFrames p = none) : canOpen p = false := by
  simpa [phaseAfterFrames_eq] using h

theorem phaseAfterOpening_none {p q : PState} (h : phaseAfterOpening p q = none) : canOpen p = false := by
  simpa [phaseAfterOpening_eq] using h

theorem phaseAfterHarvest_none {p q : PState} (h : phaseAfterHarvest p q = none) : p ≠ .reading := by
  simpa [phaseAfterHarvest_eq] using h

theorem writePage_misuse (a : Addr) (data : List Byte) {s : State} (h : canOpen s.pstate = false) :
    writePage a data s = .halt .misuse s := by
  rw [writePage, writeCmd_misuse _ h, Res.bind_halt]

/-- A command whose phase precondition fails records the misuse before any other change. -/
theorem exec_misuse {i : Instr} {op : Byte} {s : State} (hop : commandOp i = some op)
    (hphase : phaseAfter i s.pstate = none) :
    exec i s = .next { s with fault := some (.protocolMisuse (.command op) s.pstate) } := by
  cases i with
  | select => cases hphase
  | init _ _ => cases hphase
  | deselect =>
    cases hop
    have hreading : s.pstate = .reading := by simpa [phaseAfter] using hphase
    exact runCommand_misuse (first := fun s => require (s.pstate != .reading) s) (require_not (by simp [hreading]) s)
  | transfer byte =>
    cases hop
    have hreading : s.pstate = .reading := by simpa [phaseAfter] using hphase
    exact runCommand_misuse (first := fun s => require (s.pstate != .reading) s) (require_not (by simp [hreading]) s)
  | writecmd opcode =>
    cases hop
    exact runCommand_misuse (first := writeCmd opcode) (writeCmd_misuse _ (phaseAfterFrames_none hphase))
  | writeenable =>
    cases hop
    exact runCommand_misuse (first := writeCmd _) (writeCmd_misuse _ (phaseAfterFrames_none hphase))
  | wake =>
    cases hop
    exact runCommand_misuse (first := writeCmd _) (writeCmd_misuse _ (phaseAfterFrames_none hphase))
  | sleep =>
    cases hop
    exact runCommand_misuse (first := writeCmd _) (writeCmd_misuse _ (phaseAfterFrames_none hphase))
  | seek opcode addr =>
    cases hop
    exact runCommand_misuse (first := seek opcode addr) (seek_misuse _ _ (phaseAfterOpening_none hphase))
  | beginread addr =>
    cases hop
    exact runCommand_misuse (first := beginRead addr) (beginRead_misuse _ (phaseAfterOpening_none hphase))
  | seekdata offset =>
    cases hop
    exact translatingCommand_misuse (phaseAfterOpening_none hphase)
  | seeksave offset =>
    cases hop
    exact translatingCommand_misuse (phaseAfterOpening_none hphase)
  | seekdataarray index elementSize extraOffset =>
    cases hop
    exact translatingCommand_misuse (phaseAfterOpening_none hphase)
  | readpending =>
    cases hop
    exact runCommand_misuse (first := readPending) (readPending_misuse (phaseAfterHarvest_none hphase))
  | readpending16 =>
    cases hop
    exact runCommand_misuse (first := readPending) (readPending_misuse (phaseAfterHarvest_none hphase))
  | readpending24 =>
    cases hop
    exact runCommand_misuse (first := readPending) (readPending_misuse (phaseAfterHarvest_none hphase))
  | readpending32 =>
    cases hop
    exact runCommand_misuse (first := readPending) (readPending_misuse (phaseAfterHarvest_none hphase))
  | readlast24 =>
    cases hop
    exact runCommand_misuse (first := readPending) (readPending_misuse (phaseAfterHarvest_none hphase))
  | readlast32 =>
    cases hop
    exact runCommand_misuse (first := readPending) (readPending_misuse (phaseAfterHarvest_none hphase))
  | readlast =>
    cases hop
    exact runCommand_misuse (first := readLast) (readLast_misuse (phaseAfterHarvest_none hphase))
  | readlast16 =>
    cases hop
    exact runCommand_misuse (first := readLast16) (readLast16_misuse (phaseAfterHarvest_none hphase))
  | eraseblock addr =>
    cases hop
    exact runCommand_misuse (first := eraseBlock addr) (eraseBlock_misuse _ (phaseAfterFrames_none hphase))
  | writepage addr data =>
    cases hop
    exact runCommand_misuse (first := writePage addr data) (writePage_misuse _ _ (phaseAfterFrames_none hphase))
  | erasesaveblock logicalPage =>
    cases hop
    exact (exec_erasesaveblock _ s).trans (translatingCommand_misuse (phaseAfterFrames_none hphase))
  | writesavepage logicalPage data =>
    cases hop
    exact (exec_writesavepage _ _ s).trans (translatingCommand_misuse (phaseAfterFrames_none hphase))
  | drawbitmap x y addr frame mode =>
    cases hop
    exact runCommand_misuse (first := fun s => require (canOpen s.pstate) s) (require_not (phaseAfterFrames_none hphase) s)
  | _ => cases hop

/-- Settles O43: an entry `fault` is a misuse, and a phase is where a command that ran to its end has left the engine. -/
theorem phaseTable : Obligations.PhaseTable := by
  intro i op s hop
  refine ⟨exec_misuse hop, fun p t hinv hclear hphase hrun ht => ?_⟩
  have hs : InPhase s.pstate s := (State.inv_clear hinv hclear).1
  exact (exec_inPhase i hs hphase hrun ht).pstate

end Sys2Proof.Machine
end

section
/-! PROOFS. The invariant of a run (`10_state.md` R36): what every instruction does to the memories, the parameters and the
history, DRAWBITMAP included, and that every step keeps the invariant. -/

namespace Sys2Proof.Machine

/-! ## What every instruction can do, however it ends -/

/-- What an operation can do to the state, however it ends, DRAWBITMAP's included: as `Evolves`, but the pages, the
framebuffer and the blitter's temporaries may move. -/
structure Progresses (s t : State) : Prop where
  cfg : t.cfg = s.cfg
  pm : t.pm = s.pm
  host : t.host = s.host
  responses : t.responses = s.responses
  history : ∃ events, t.trace = s.trace ++ events
  level : traceLevel false s.trace = some s.cs → traceLevel false t.trace = some t.cs
  memories : 0 < s.cfg.flashBytes → s.memInv = true → t.memInv = true
  quiet : (s.cs || s.flash.n == 0) = true → (t.cs || t.flash.n == 0) = true

theorem Evolves.progresses {s t : State} (h : Evolves s t) : Progresses s t := by
  obtain ⟨-, -, -, -, -, -, -, -, hpm, hcfg, hhost⟩ := h.kept
  exact ⟨hcfg, hpm, hhost, h.responses, h.history, h.level, h.memories, h.quiet⟩

theorem Progresses.refl (s : State) : Progresses s s := (Evolves.refl s).progresses

theorem Progresses.trans {s t u : State} (h : Progresses s t) (g : Progresses t u) : Progresses s u where
  cfg := g.cfg.trans h.cfg
  pm := g.pm.trans h.pm
  host := g.host.trans h.host
  responses := g.responses.trans h.responses
  history := by
    obtain ⟨before, hbefore⟩ := h.history
    obtain ⟨after, hafter⟩ := g.history
    exact ⟨before ++ after, by rw [hafter, hbefore, List.append_assoc]⟩
  level := g.level ∘ h.level
  memories hpos hmem := g.memories (h.cfg ▸ hpos) (h.memories hpos hmem)
  quiet := g.quiet ∘ h.quiet

theorem Progresses.bind {α β : Type} {s : State} {r : Res α} {f : α → State → Res β} (h : Progresses s r.final)
    (g : ∀ (a : α) (t : State), Progresses s t → Progresses t (f a t).final) : Progresses s (r.bind f).final := by
  cases r with
  | ok a t => exact h.trans (g a t h)
  | halt why t => exact h

/-! ### INIT -/

theorem withPages_progresses (d p : Page) (s : State) : Progresses s (s.withPages d p) :=
  ⟨rfl, rfl, rfl, rfl, ⟨[], by simp⟩, id, fun _ h => h, id⟩

/-! ### DRAWBITMAP -/

/-- The columns that a blit draws lie in the viewport. -/
def Blit.inViewport (cfg : Config) (b : Blit) : Prop :=
  0 ≤ b.col0 ∧ ∀ c : Nat, (c : Int) < b.renderW → b.col0 + c < cfg.displayW

theorem geometry_inViewport (cfg : Config) (x y bw bh : Int) (addr : Addr) (frame : Byte) (masked : Bool) :
    (geometry cfg x y bw bh addr frame masked).inViewport cfg :=
  ⟨le_max_right x 0, fun c hc => (geometry_columns cfg x y bw bh addr frame masked c hc).2⟩

theorem nextRow_inViewport {cfg : Config} {b : Blit} (h : b.inViewport cfg) : (nextRow b).inViewport cfg := h

theorem withBlit_progresses (b : Option Blit) (s : State) : Progresses s (s.withBlit b) :=
  ⟨rfl, rfl, rfl, rfl, ⟨[], by simp⟩, id, fun _ h => h, id⟩

theorem composeColumn_progresses {b : Blit} (mode : Byte) {c : Nat} (v m : Byte) {s : State} (hb : b.inViewport s.cfg)
    (hc : (c : Int) < b.renderW) : Progresses s (composeColumn b mode c v m s) := by
  have hkeeps := composeColumn_keeps b mode c v m s hb.1 (hb.2 c hc)
  rw [composeColumn_same]
  refine ⟨rfl, rfl, rfl, rfl, ⟨[], by simp⟩, id, fun _ hmem => ?_, id⟩
  simp only [State.memInv, Bool.and_eq_true] at hmem ⊢
  obtain ⟨⟨⟨hflash, hfb⟩, hpm⟩, hcur⟩ := hmem
  exact ⟨⟨⟨hflash, hkeeps hfb.1 hfb.2⟩, hpm⟩, hcur⟩

theorem fetchMask_evolves (mode : Byte) (s : State) : Evolves s (fetchMask mode s).final := by
  rw [fetchMask]
  split
  · exact readPending_evolves s
  · exact Evolves.refl s

theorem drawColumn_progresses {b : Blit} (mode row : Byte) {c : Nat} {s : State} (hb : b.inViewport s.cfg)
    (hc : (c : Int) < b.renderW) : Progresses s (drawColumn b mode row c s).final :=
  (readPending_evolves s).progresses.bind fun p t hst => (fetchMask_evolves mode t).progresses.bind fun mp u htu =>
    composeColumn_progresses mode _ _ (by rw [htu.cfg, hst.cfg]; exact hb) hc

theorem drawColumns_progresses {b : Blit} (mode row : Byte) (count c : Nat) {s : State} (hb : b.inViewport s.cfg)
    (hc : c + count ≤ b.renderW.toNat) : Progresses s (drawColumns b mode row count c s).final := by
  induction count generalizing c s with
  | zero => exact Progresses.refl s
  | succ k ih =>
    exact (drawColumn_progresses mode row hb (by omega)).bind fun _ t hst =>
      ih (c + 1) (hst.cfg ▸ hb) (by omega)

theorem drawRow_progresses (mode : Byte) (i : Nat) {b : Blit} {s : State} (hb : b.inViewport s.cfg) :
    Progresses s (drawRow mode i b s).final :=
  ((withBlit_progresses _ s).trans (seekData_evolves b.src _).progresses).bind fun _ _ hst =>
    (drawColumns_progresses mode _ _ 0 (hst.cfg ▸ hb) (Nat.zero_add _).le).bind fun _ u _ =>
      (readLast_evolves u).progresses.bind fun _ v _ => Progresses.refl v

theorem drawRows_progresses (mode : Byte) (count i : Nat) {b : Blit} {s : State} (hb : b.inViewport s.cfg) :
    Progresses s (drawRows mode count i b s).final := by
  induction count generalizing i b s with
  | zero => exact Progresses.refl s
  | succ k ih =>
    exact (drawRow_progresses mode i hb).bind fun _ t hst => ih (i + 1) (nextRow_inViewport (hst.cfg ▸ hb))

theorem drawBitmap_progresses (x y : Half) (addr : Addr) (frame mode : Byte) (s : State) :
    Progresses s (drawBitmap x y addr frame mode s).final := by
  refine (readHeader_evolves addr s).progresses.bind fun wh t _ => ?_
  split
  · exact Progresses.refl t
  · exact (drawRows_progresses mode _ 0 (geometry_inViewport ..)).bind fun _ u _ => withBlit_progresses none u

/-! ### Every instruction -/

theorem exec_progresses (i : Instr) {s t : State} (h : exec i s = .next t) : ∃ u, Progresses s u ∧ Answered u t := by
  cases hinit : resolvesPages i with
  | true =>
    obtain ⟨devData, devSave, rfl⟩ := eq_init_of_resolvesPages hinit
    rw [exec] at h
    refine ⟨_, ?_, runCommand_answered h⟩
    split
    · exact Progresses.refl s
    · exact withPages_progresses _ _ s
  | false =>
    cases hdraw : drawsBitmap i with
    | false =>
      obtain ⟨u, hevolves, hanswer⟩ := exec_evolves i hinit hdraw h
      exact ⟨u, hevolves.progresses, hanswer⟩
    | true =>
      cases i with
      | drawbitmap x y addr frame mode =>
        rw [exec] at h
        refine ⟨_, (require_evolves _ s).progresses.bind fun _ u _ => ?_, runCommand_answered h⟩
        split
        · exact (drawBitmap_progresses x y addr frame mode u).bind fun _ v _ => Progresses.refl v
        · exact Progresses.refl u
      | _ => cases hdraw

/-- An answer leaves all but the marks and the history of responses, which only grows. -/
theorem Answered.same {u t : State} (h : Answered u t) :
    t.cs = u.cs ∧ t.flash = u.flash ∧ t.fb = u.fb ∧ t.pm = u.pm ∧ t.cfg = u.cfg ∧ t.host = u.host ∧ t.trace = u.trace ∧
      t.blit = u.blit ∧ ∃ given, t.responses = u.responses ++ given := by
  cases h with
  | silent => exact ⟨rfl, rfl, rfl, rfl, rfl, rfl, rfl, rfl, [], by simp⟩
  | responded v => exact ⟨rfl, rfl, rfl, rfl, rfl, rfl, rfl, rfl, [v], rfl⟩
  | raised given phase why => cases why <;> exact ⟨rfl, rfl, rfl, rfl, rfl, rfl, rfl, rfl, [], by simp [State.raise]⟩

/-- An instruction but DRAWBITMAP leaves the framebuffer and the blitter's temporaries. -/
theorem exec_fb_blit (i : Instr) {s t : State} (hdraw : drawsBitmap i = false) (h : exec i s = .next t) :
    t.fb = s.fb ∧ t.blit = s.blit := by
  cases hinit : resolvesPages i with
  | true =>
    obtain ⟨devData, devSave, rfl⟩ := eq_init_of_resolvesPages hinit
    rw [exec] at h
    obtain ⟨-, -, hfb, -, -, -, -, hblit, -⟩ := (runCommand_answered h).same
    rw [hfb, hblit]
    split <;> exact ⟨rfl, rfl⟩
  | false =>
    obtain ⟨u, hevolves, hanswer⟩ := exec_evolves i hinit hdraw h
    obtain ⟨-, -, hfb, -, -, -, -, hblit, -⟩ := hanswer.same
    obtain ⟨-, -, -, kblit, -, -, -, kfb, -⟩ := hevolves.kept
    exact ⟨hfb.trans kfb, hblit.trans kblit⟩

/-- Settles O14: every instruction progresses, and then at most answers. -/
theorem onlyDrawbitmapTouchesFramebuffer : Obligations.OnlyDrawbitmapTouchesFramebuffer := by
  intro i s t h
  obtain ⟨u, hu, hanswer⟩ := exec_progresses i h
  obtain ⟨-, -, -, hpm, hcfg, hhost, htrace, -, hresponses⟩ := hanswer.same
  refine ⟨fun hdraw a => ?_, fun a => ?_, hcfg.trans hu.cfg, hhost.trans hu.host, ?_, ?_⟩
  · rw [(exec_fb_blit i hdraw h).1]
  · rw [hpm, hu.pm]
  · rw [htrace]
    exact hu.history
  · rw [← hu.responses]
    exact hresponses

/-! ## The invariant -/

/-- A wire opcode given as an instruction is its whole frame (log 3). -/
theorem exec_wire {i : Instr} (h : commandOp i = none) (s : State) :
    ∃ op rest, firstOpcode s.cfg i = some op ∧ exec i s = runFrame op rest s := by
  cases i with
  | opReleasePd => exact ⟨_, _, rfl, rfl⟩
  | opPowerDown => exact ⟨_, _, rfl, rfl⟩
  | opWriteEnable => exact ⟨_, _, rfl, rfl⟩
  | opRead addr dummies => exact ⟨_, _, rfl, rfl⟩
  | opWrite addr data => exact ⟨_, _, rfl, rfl⟩
  | opErase addr => exact ⟨_, _, rfl, rfl⟩
  | opJedecId dummies => exact ⟨_, _, rfl, rfl⟩
  | opReadStatus1 dummies => exact ⟨_, _, rfl, rfl⟩
  | opReadStatus2 dummies => exact ⟨_, _, rfl, rfl⟩
  | _ => cases h

theorem phaseAfter_wire {i : Instr} (h : commandOp i = none) (p : PState) : phaseAfter i p = phaseAfterFrames p := by
  cases i <;> first | rfl | cases h

/-- An instruction that ends without a verdict has an entry in the table of the phases. -/
theorem phaseAfter_of_clear {i : Instr} {s t : State} (h : exec i s = .next t) (hclear : t.clear = true) :
    ∃ q, phaseAfter i s.pstate = some q := by
  rw [← Option.ne_none_iff_exists']
  intro hphase
  cases hop : commandOp i with
  | some op =>
    rw [exec_misuse hop hphase] at h
    cases h
    simp [State.clear] at hclear
  | none =>
    obtain ⟨op, rest, -, hframe⟩ := exec_wire hop s
    have hrun := runFrame_clear (hframe ▸ h) hclear
    rw [phaseAfter_wire hop] at hphase
    rw [sendFrame, require_not (phaseAfterFrames_none hphase)] at hrun
    cases hrun

/-- DRAWBITMAP leaves no temporaries behind (`10_state.md` R27). -/
theorem drawBitmap_noBlit (x y : Half) (addr : Addr) (frame mode : Byte) {s : State} (h : s.blit = none) :
    (drawBitmap x y addr frame mode s).Ensures fun t => t.blit = none := by
  refine Res.Ensures.bind (P := fun t => t.blit = none) (fun wh t hrun => ?_) fun wh t ht => ?_
  · have hevolves := readHeader_evolves addr s
    rw [hrun] at hevolves
    obtain ⟨-, -, -, hblit, -⟩ := hevolves.kept
    exact hblit.trans h
  · split
    · exact Res.ensures_ok ht
    · exact Res.Ensures.bind (P := fun _ => True) (fun _ _ _ => trivial) fun _ _ _ => Res.ensures_ok rfl

theorem exec_noBlit (i : Instr) {s t : State} (hblit : s.blit = none) (h : exec i s = .next t) (hclear : t.clear = true) :
    t.blit = none := by
  cases hdraw : drawsBitmap i with
  | false => exact (exec_fb_blit i hdraw h).2.trans hblit
  | true =>
    cases i with
    | drawbitmap x y addr frame mode =>
      rw [exec] at h
      obtain ⟨v, u, hrun, rfl⟩ := runCommand_clear h hclear
      refine Res.Ensures.bind (P := fun t => t.blit = none) (Q := fun t => t.blit = none) (require_ensures fun _ => hblit) (fun _ w hw => ?_) v u hrun
      split
      · exact andRespond0_ensures (drawBitmap_noBlit x y addr frame mode hw)
      · exact Res.ensures_halt
    | _ => cases hdraw

/-- The part of the invariant that holds of every state, whether a verdict is recorded or not. -/
def State.storeInv (s : State) : Prop :=
  s.cfg.wf = true ∧ s.memInv = true ∧ (s.cs || s.flash.n == 0) = true

theorem State.inv_iff (s : State) :
    s.inv = true ↔ s.storeInv ∧
      (s.clear = true → InPhase s.pstate s ∧ traceLevel false s.trace = some s.cs ∧ s.blit = none) := by
  have hbus := busInv_frameInv_iff s
  rw [State.inv, State.storeInv]
  cases hclear : s.clear
  · simp [and_assoc]
  · rw [← and_assoc (a := InPhase _ _), ← hbus]
    simp [and_assoc]

theorem Progresses.storeInv {s t : State} (h : Progresses s t) (hs : s.storeInv) : t.storeInv := by
  obtain ⟨hwf, hmem, hquiet⟩ := hs
  exact ⟨h.cfg ▸ hwf, h.memories (Config.wf_flashBytes hwf).1 hmem, h.quiet hquiet⟩

theorem exec_inv {i : Instr} {s t : State} (h : s.inv = true) (hclear : s.clear = true) (hrun : exec i s = .next t) :
    t.inv = true := by
  obtain ⟨hstore, hlive⟩ := (State.inv_iff s).mp h
  obtain ⟨hphase, htrace, hblit⟩ := hlive hclear
  obtain ⟨u, hu, hanswer⟩ := exec_progresses i hrun
  obtain ⟨hcs, hflash, hfb, hpm, hcfg, -, htr, -⟩ := hanswer.same
  refine (State.inv_iff t).mpr ⟨?_, fun ht => ⟨?_, ?_, exec_noBlit i hblit hrun ht⟩⟩
  · have hu := hu.storeInv hstore
    simpa only [State.storeInv, State.memInv, hcs, hflash, hfb, hpm, hcfg] using hu
  · obtain ⟨q, hq⟩ := phaseAfter_of_clear hrun ht
    have hend := exec_inPhase i hphase hq hrun ht
    exact hend.pstate.symm ▸ hend
  · rw [htr, hcs]
    exact hu.level htrace

theorem memInv_withFb {s : State} {m : Mem} (h : s.memInv = true) (hwf : Mem.wf .fb m = true)
    (hbelow : Mem.below m s.cfg.fbBytes = true) : (s.withFb m).memInv = true := by
  simp only [State.memInv, Bool.and_eq_true] at h ⊢
  obtain ⟨⟨⟨hflash, -⟩, hpm⟩, hcur⟩ := h
  exact ⟨⟨⟨hflash, hwf, hbelow⟩, hpm⟩, hcur⟩

theorem shifterStep_inv {s : State} (h : s.inv = true) : (shifterStep s).inv = true := by
  rw [shifterStep]
  split
  · obtain ⟨hstore, hlive⟩ := (State.inv_iff s).mp h
    refine (State.inv_iff _).mpr ⟨hstore, fun hclear => ?_⟩
    obtain ⟨hphase, hrest⟩ := hlive hclear
    exact ⟨⟨rfl, hphase.cs, fun _ => rfl, hphase.readOpcode, hphase.noByte, hphase.firstByte⟩, hrest⟩
  · exact h

theorem hostFbWrite_inv {i : Nat} {v : Byte} {s t : State} (h : s.inv = true) (hrun : hostFbWrite i v s = .next t) :
    t.inv = true := by
  rw [hostFbWrite] at hrun
  split at hrun
  · cases hrun
    obtain ⟨⟨hwf, hmem, hquiet⟩, hlive⟩ := (State.inv_iff s).mp h
    have hfb : Mem.wf .fb s.fb = true ∧ Mem.below s.fb s.cfg.fbBytes = true := by
      simp only [State.memInv, Bool.and_eq_true] at hmem
      exact hmem.1.1.2
    refine (State.inv_iff _).mpr ⟨⟨hwf, ?_, hquiet⟩, fun hclear => ?_⟩
    · exact memInv_withFb hmem (Mem.write_wf _ _ hfb.1) (Mem.write_below _ _ ‹_› hfb.2)
    · obtain ⟨hphase, hrest⟩ := hlive hclear
      exact ⟨hphase.congr rfl rfl rfl rfl rfl, hrest⟩
  · cases hrun

theorem resetEvent_inv {s : State} (h : s.inv = true) : s.resetEvent.inv = true := by
  obtain ⟨⟨hwf, hmem, hquiet⟩, -⟩ := (State.inv_iff s).mp h
  have hn : s.resetEvent.flash.n = 0 := by
    have hrestart := FlashPart.restart_n s.cfg s.cs s.flash
    cases hcs : s.cs <;> simp_all [State.resetEvent]
  simp only [State.memInv, Bool.and_eq_true, decide_eq_true_eq] at hmem
  obtain ⟨⟨⟨hflash, hfb⟩, hpm⟩, hcur⟩ := hmem
  have hkeeps := FlashPart.restart_keeps s.cfg s.cs s.flash (Config.wf_flashBytes hwf).1 hflash.1 hflash.2
  refine (State.inv_iff _).mpr ⟨⟨hwf, ?_, ?_⟩, fun _ => ⟨⟨rfl, rfl, fun _ => rfl, nofun, fun _ => hn, nofun⟩, rfl, rfl⟩⟩
  · simp only [State.memInv, Bool.and_eq_true, decide_eq_true_eq]
    exact ⟨⟨⟨hkeeps, hfb⟩, hpm⟩, by simpa [State.resetEvent] using hcur⟩
  · simp [hn]

theorem refuse_inv {s : State} (e : DecodeError) (h : s.inv = true) : (s.refuse e).inv = true := by
  obtain ⟨hstore, -⟩ := (State.inv_iff s).mp h
  exact (State.inv_iff _).mpr ⟨hstore, fun hclear => by simp [State.clear] at hclear⟩

theorem stopped_eq_none_iff (s : State) : s.stopped = none ↔ s.clear = true := by
  rw [State.stopped, State.clear]
  cases s.stuck <;> cases s.fault <;> cases s.refused <;> simp

theorem stopped_not_next {s t : State} : s.stopped ≠ some (.next t) := by
  rw [State.stopped]
  cases s.stuck <;> cases s.fault <;> cases s.refused <;> simp

theorem takeMove_inv {m : HostMove} {s t : State} (h : s.inv = true) (hclear : s.clear = true)
    (hrun : takeMove m s = .next t) : t.inv = true := by
  cases m with
  | give what =>
    rw [takeMove, runGiven] at hrun
    split at hrun
    · exact exec_inv h hclear hrun
    · cases hrun
      exact refuse_inv _ h
  | wait =>
    cases hrun
    exact shifterStep_inv h
  | fbWrite i v => exact hostFbWrite_inv h hrun
  | reset =>
    cases hrun
    exact resetEvent_inv h

/-- Settles O12: a reset restores the invariant, a stopped machine moves no more, and every other move keeps it. -/
theorem stepKeepsInvariant : Obligations.StepKeepsInvariant := by
  intro s t h hrun
  by_cases hreset : ∃ rest, s.host = .reset :: rest
  · obtain ⟨rest, hmove⟩ := hreset
    rw [step_reset hmove] at hrun
    cases hrun
    exact resetEvent_inv (s := s.withHost rest) h
  · cases hstopped : s.stopped with
    | some verdict =>
      rw [step_stopped (fun rest hmove => hreset ⟨rest, hmove⟩) hstopped] at hrun
      exact absurd (hrun ▸ hstopped) stopped_not_next
    | none =>
      cases hmove : s.host with
      | nil =>
        rw [step_noMove hstopped hmove] at hrun
        cases hrun
        exact shifterStep_inv h
      | cons m rest =>
        rw [step_move hstopped hmove] at hrun
        exact takeMove_inv (s := s.withHost rest) h ((stopped_eq_none_iff s).mp hstopped) hrun

end Sys2Proof.Machine
end

section
/-! PROOFS. The flash array (`20_memory.md` R59, R65, R70): only the `D` that closes a write frame or an erase frame changes it,
so the instructions that close none leave it, however they end. -/

namespace Sys2Proof.Machine

/-! ## Operations without a `D` -/

/-- The operation leaves the array, however it ends, and where it runs to its end its state has the property. -/
structure LeavesArray {α : Type} (r : Res α) (s : State) (P : State → Prop) : Prop where
  array : r.final.flash.mem = s.flash.mem
  ensures : r.Ensures P

theorem LeavesArray.bind {α β : Type} {r : Res α} {f : α → State → Res β} {s : State} {P Q : State → Prop}
    (h : LeavesArray r s P) (g : ∀ (a : α) (t : State), P t → LeavesArray (f a t) t Q) :
    LeavesArray (r.bind f) s Q where
  array := by
    obtain ⟨harray, hensures⟩ := h
    cases r with
    | ok a t => exact (g a t (hensures a t rfl)).array.trans harray
    | halt why t => exact harray
  ensures := h.ensures.bind fun a t ht => (g a t ht).ensures

theorem leavesArray_ok {α : Type} (a : α) {s t : State} {P : State → Prop} (harray : t.flash.mem = s.flash.mem)
    (h : P t) : LeavesArray (Res.ok a t) s P :=
  ⟨harray, Res.ensures_ok h⟩

theorem leavesArray_halt {α : Type} (why : Stop) (s : State) {P : State → Prop} :
    LeavesArray (Res.halt why s : Res α) s P :=
  ⟨rfl, Res.ensures_halt⟩

theorem require_leavesArray {p : Bool} {s : State} {P : State → Prop} (h : p = true → P s) :
    LeavesArray (require p s) s P :=
  ⟨by rw [require_eq]; split <;> rfl, require_ensures h⟩

theorem issue_array (b : Byte) (s : State) : (issue b s).final.flash.mem = s.flash.mem := by
  have hissued : (s.issued b).flash.mem = s.flash.mem := by
    rw [State.issued_flash]
    split
    · exact FlashPart.exchange_mem _ _ _
    · rfl
  rw [issue_eq]
  repeat' split
  · rfl
  · exact hissued
  · exact hissued

theorem wait_array (s : State) : (wait s).final.flash.mem = s.flash.mem := by
  rw [wait_eq]
  repeat' split
  all_goals rfl

/-- A sequence leaves the array where its parts do. -/
theorem array_bind {α β : Type} {r : Res α} {f : α → State → Res β} {s : State} (h : r.final.flash.mem = s.flash.mem)
    (g : ∀ (a : α) (t : State), (f a t).final.flash.mem = t.flash.mem) :
    (r.bind f).final.flash.mem = s.flash.mem := by
  cases r with
  | ok a t => exact (g a t).trans h
  | halt why t => exact h

theorem xfer_array (b : Byte) (s : State) : (xfer b s).final.flash.mem = s.flash.mem :=
  array_bind (issue_array b s) fun _ t => array_bind (wait_array t) fun _ _ => rfl

theorem xferTracked_array (b : Byte) (s : State) : (xferTracked b s).final.flash.mem = s.flash.mem := by
  rw [xferTracked]
  split <;> exact xfer_array b _

theorem select_array (s : State) : (select s).flash.mem = s.flash.mem := by
  rw [select_eq]
  split <;> rfl

theorem sendAll_array (bytes : List Byte) (s : State) : (sendAll bytes s).final.flash.mem = s.flash.mem := by
  induction bytes generalizing s with
  | nil => rfl
  | cons b rest ih => exact array_bind (xfer_array b s) fun _ t => ih t

theorem require_array (p : Bool) (s : State) : (require p s).final.flash.mem = s.flash.mem :=
  (require_leavesArray (P := fun _ => True) fun _ => trivial).array

theorem seek_array (op : Byte) (a : Addr) (s : State) : (seek op a s).final.flash.mem = s.flash.mem :=
  array_bind (require_array _ s) fun _ t =>
    array_bind ((xferTracked_array op _).trans (select_array t)) fun _ u => sendAll_array _ u

theorem beginRead_array (a : Addr) (s : State) : (beginRead a s).final.flash.mem = s.flash.mem :=
  array_bind (seek_array _ a s) fun _ t => array_bind (issue_array _ t) fun _ _ => rfl

theorem readPending_array (s : State) : (readPending s).final.flash.mem = s.flash.mem :=
  array_bind (require_array _ s) fun _ t => array_bind (wait_array t) fun _ u => array_bind (issue_array _ u) fun _ _ => rfl

theorem translator_array {α : Type} (a : α) (why : Stop) (s : State) :
    (if s.inited then Res.ok a s else .halt why s).final.flash.mem = s.flash.mem := by
  split <;> rfl

theorem seekData_array (o : Addr) (s : State) : (seekData o s).final.flash.mem = s.flash.mem :=
  array_bind (require_array _ s) fun _ t => array_bind (translator_array _ _ t) fun a u => beginRead_array a u

theorem seekSave_array (o : Addr) (s : State) : (seekSave o s).final.flash.mem = s.flash.mem :=
  array_bind (require_array _ s) fun _ t => array_bind (translator_array _ _ t) fun a u => beginRead_array a u

/-! ## The `D` of a frame that neither writes nor erases -/

/-- The frame at the part neither programs nor erases when it closes. -/
def FlashPart.harmless (cfg : Config) (f : FlashPart) : Prop :=
  f.bad = true ∨ ¬ (f.op = cfg.opWrite ∧ 5 ≤ f.n) ∧ ¬ (f.op = WireOp.erase ∧ f.n = 4)

theorem FlashPart.harmless.deselect_mem {cfg : Config} {f : FlashPart} (h : f.harmless cfg) :
    (f.deselect cfg).mem = f.mem := by
  rcases h with hbad | hframe
  · rw [FlashPart.deselect_of_bad cfg hbad]
  · exact FlashPart.deselect_mem_same cfg f hframe

/-- A frame of one byte is too short to program or to erase. -/
theorem FlashPart.harmless_of_short (cfg : Config) {f : FlashPart} (h : f.n ≤ 1) : f.harmless cfg :=
  .inr ⟨fun hwrite => by omega, fun herase => by omega⟩

theorem FlashPart.harmless_of_opcode {cfg : Config} {op : Byte} {f : FlashPart} (h : f.bad = true ∨ f.op = op)
    (hwrite : op ≠ cfg.opWrite) (herase : op ≠ WireOp.erase) : f.harmless cfg :=
  h.imp_right fun hop => ⟨fun hw => hwrite (hop.symm.trans hw.1), fun he => herase (hop.symm.trans he.1)⟩

theorem deselect_array {s : State} (h : s.flash.harmless s.cfg) : (deselect s).final.flash.mem = s.flash.mem := by
  rw [deselect_eq]
  repeat' split
  · rfl
  · exact h.deselect_mem
  · exact h.deselect_mem
  · rfl

/-! ## The frames and reads of an engine in good order -/

/-- In phase `p`, with the parameters `cfg`. -/
def InPhaseOf (cfg : Config) (p : PState) (s : State) : Prop := InPhase p s ∧ s.cfg = cfg

theorem Evolves.ensures_cfg {α : Type} {r : Res α} {s : State} (h : Evolves s r.final) :
    r.Ensures fun t => t.cfg = s.cfg := by
  rintro a t rfl
  exact State.kept_cfg h.kept

theorem Res.Ensures.and {α : Type} {r : Res α} {P Q : State → Prop} (h : r.Ensures P) (g : r.Ensures Q) :
    r.Ensures fun t => P t ∧ Q t :=
  fun a t hrun => ⟨h a t hrun, g a t hrun⟩

section
variable {cfg : Config} {p : PState} {s : State}

/-- An operation that evolves the state and leaves the array, from its end in phase `q`. -/
theorem leavesArray_of {α : Type} {q : PState} {r : Res α} (h : InPhaseOf cfg p s) (hevolves : Evolves s r.final)
    (harray : r.final.flash.mem = s.flash.mem) (hphase : r.Ensures (InPhase q)) : LeavesArray r s (InPhaseOf cfg q) :=
  ⟨harray, hphase.and (h.2 ▸ hevolves.ensures_cfg)⟩

theorem require_inPhaseOf (b : Bool) (h : InPhaseOf cfg p s) : LeavesArray (require b s) s (InPhaseOf cfg p) :=
  require_leavesArray fun _ => h

theorem deselect_inPhaseOf (h : InPhaseOf cfg p s) (hframe : s.flash.harmless cfg) :
    LeavesArray (deselect s) s (InPhaseOf cfg .idle) :=
  leavesArray_of h (deselect_evolves s) (deselect_array (h.2 ▸ hframe)) (deselect_inPhase h.1)

/-- The opening of a frame sends its one byte, the opcode. -/
theorem opening_leavesArray (op : Byte) (h : InPhaseOf cfg p s) :
    LeavesArray ((require (canOpen s.pstate) s).bind fun _ s => xferTracked op (select s)) s
      fun t => OpenFrame op t ∧ t.cfg = cfg ∧ t.flash.n = 1 := by
  refine ⟨array_bind (require_array _ s) fun _ t => (xferTracked_array op _).trans (select_array t), ?_⟩
  refine (opening_openFrame op h.1).and (Res.Ensures.and ?_ ?_)
  · exact h.2 ▸ Evolves.ensures_cfg ((require_evolves _ s).bind fun _ t _ =>
      (select_evolves t).trans (xferTracked_evolves op _))
  · refine Res.Ensures.bind (P := fun t => InPhase .selected (select t))
      (require_ensures fun hopen => select_opens h.1 (h.1.canOpen_eq ▸ hopen)) fun _ t ht r u hrun => ?_
    rw [xferTracked, if_pos ht.pstate] at hrun
    obtain ⟨-, rfl, -⟩ := xfer_ok hrun
    have hcs : (select t).cs = true := ht.cs
    simp [hcs, ht.noByte rfl]

theorem writeCmd_leavesArray (op : Byte) (h : InPhaseOf cfg p s) :
    LeavesArray (writeCmd op s) s (InPhaseOf cfg .idle) := by
  have hframe := (opening_leavesArray op h).bind fun _ t ⟨hopen, hcfg, hn⟩ =>
    deselect_inPhaseOf ⟨hopen.1, hcfg⟩ (FlashPart.harmless_of_short cfg hn.le)
  rwa [Res.bind_assoc] at hframe

/-- The frame of an opcode that is neither OP_WRITE nor OP_ERASE, whatever its length. -/
theorem sendFrame_leavesArray (op : Byte) (rest : List Byte) (h : InPhaseOf cfg p s) (hwrite : op ≠ cfg.opWrite)
    (herase : op ≠ WireOp.erase) : LeavesArray (sendFrame op rest s) s (InPhaseOf cfg .idle) := by
  have hsend : ∀ t : State, OpenFrame op t ∧ t.cfg = cfg ∧ t.flash.n = 1 →
      LeavesArray (sendAll rest t) t fun u => OpenFrame op u ∧ u.cfg = cfg := fun t ⟨hopen, hcfg, _⟩ =>
    ⟨sendAll_array rest t, (sendAll_openFrame rest hopen).and (hcfg ▸ (sendAll_evolves rest t).ensures_cfg)⟩
  have hframe := (opening_leavesArray op h).bind fun _ t ht => (hsend t ht).bind fun _ u ⟨hopen, hcfg⟩ =>
    deselect_inPhaseOf ⟨hopen.1, hcfg⟩
      (FlashPart.harmless_of_opcode (hopen.2 ▸ (hopen.1.firstByte rfl).2) hwrite herase)
  rwa [Res.bind_assoc] at hframe

theorem seekData_leavesArray (o : Addr) (h : InPhaseOf cfg p s) :
    LeavesArray (seekData o s) s (InPhaseOf cfg .reading) :=
  leavesArray_of h (seekData_evolves o s) (seekData_array o s) (seekData_inPhase o h.1)

theorem readPending_leavesArray (h : InPhaseOf cfg p s) : LeavesArray (readPending s) s (InPhaseOf cfg .reading) :=
  leavesArray_of h (readPending_evolves s) (readPending_array s) (readPending_inPhase h.1)

/-- The frame that ends a pipelined read is a read frame. -/
theorem readLast_leavesArray (h : InPhaseOf cfg p s) (hread : cfg.opWrite ≠ WireOp.read) :
    LeavesArray (readLast s) s (InPhaseOf cfg .idle) := by
  have hwait : ∀ t : State, InPhaseOf cfg .reading t → LeavesArray (wait t) t (InPhaseOf cfg .reading) := fun t ht =>
    leavesArray_of ht (wait_evolves t) (wait_array t) (wait_reading ht.1)
  have hrequire : LeavesArray (require (s.pstate == .reading) s) s (InPhaseOf cfg .reading) :=
    leavesArray_of h (require_evolves _ s) (require_array _ s) (require_reading h.1)
  refine hrequire.bind fun _ t ht => (hwait t ht).bind fun _ u hu => LeavesArray.bind (P := InPhaseOf cfg .idle) ?_
    fun _ v hv => leavesArray_ok _ rfl hv
  exact deselect_inPhaseOf hu (FlashPart.harmless_of_opcode (hu.1.readOpcode rfl ▸ (hu.1.firstByte rfl).2) hread.symm
    (by decide))

theorem readLast16_leavesArray (h : InPhaseOf cfg p s) (hread : cfg.opWrite ≠ WireOp.read) :
    LeavesArray (readLast16 s) s (InPhaseOf cfg .idle) :=
  (readPending_leavesArray h).bind fun _ _ ht => (readLast_leavesArray ht hread).bind fun _ _ hu => leavesArray_ok _ rfl hu

theorem andRespond0_leavesArray {r : Res Unit} {P : State → Prop} (h : LeavesArray r s P) :
    LeavesArray (andRespond0 r) s P :=
  h.bind fun _ _ ht => leavesArray_ok _ rfl ht

/-! ### DRAWBITMAP -/

theorem InPhaseOf.withBlit (h : InPhaseOf cfg p s) (b : Option Blit) : InPhaseOf cfg p (s.withBlit b) :=
  ⟨h.1.withBlit b, h.2⟩

theorem drawColumn_leavesArray (b : Blit) (mode row : Byte) (c : Nat) (h : InPhaseOf cfg .reading s) :
    LeavesArray (drawColumn b mode row c s) s (InPhaseOf cfg .reading) := by
  refine (readPending_leavesArray h).bind fun p t ht => LeavesArray.bind (P := InPhaseOf cfg .reading) ?_
    fun mp u hu => ?_
  · rw [fetchMask]
    split
    · exact readPending_leavesArray ht
    · exact leavesArray_ok _ rfl ht
  · rw [composeColumn_same]
    exact leavesArray_ok _ rfl ⟨hu.1.congr rfl rfl rfl rfl rfl, hu.2⟩

theorem drawColumns_leavesArray (b : Blit) (mode row : Byte) (count c : Nat) (h : InPhaseOf cfg .reading s) :
    LeavesArray (drawColumns b mode row count c s) s (InPhaseOf cfg .reading) := by
  induction count generalizing c s with
  | zero => exact leavesArray_ok _ rfl h
  | succ k ih => exact (drawColumn_leavesArray b mode row c h).bind fun _ _ ht => ih (c + 1) ht

theorem drawRow_leavesArray (mode : Byte) (i : Nat) (b : Blit) (h : InPhaseOf cfg p s)
    (hread : cfg.opWrite ≠ WireOp.read) : LeavesArray (drawRow mode i b s) s (InPhaseOf cfg .idle) := by
  have hrow : LeavesArray (drawRow mode i b s) (s.withBlit (some b)) (InPhaseOf cfg .idle) :=
    (seekData_leavesArray b.src (h.withBlit (some b))).bind fun _ _ ht =>
      (drawColumns_leavesArray b mode _ _ 0 ht).bind fun _ _ hu => (readLast_leavesArray hu hread).bind fun _ _ hv =>
        leavesArray_ok _ rfl hv
  exact ⟨hrow.array, hrow.ensures⟩

theorem drawRows_leavesArray (mode : Byte) (count i : Nat) (b : Blit) (h : InPhaseOf cfg .idle s)
    (hread : cfg.opWrite ≠ WireOp.read) : LeavesArray (drawRows mode count i b s) s (InPhaseOf cfg .idle) := by
  induction count generalizing i b s with
  | zero => exact leavesArray_ok _ rfl h
  | succ k ih => exact (drawRow_leavesArray mode i b h hread).bind fun _ _ ht => ih (i + 1) (nextRow b) ht

theorem drawBitmap_leavesArray (x y : Half) (addr : Addr) (frame mode : Byte) (h : InPhaseOf cfg p s)
    (hread : cfg.opWrite ≠ WireOp.read) : LeavesArray (drawBitmap x y addr frame mode s) s (InPhaseOf cfg .idle) := by
  have hheader : LeavesArray (readHeader addr s) s (InPhaseOf cfg .idle) :=
    (seekData_leavesArray addr h).bind fun _ _ ht => (readPending_leavesArray ht).bind fun _ _ hu =>
      (readPending_leavesArray hu).bind fun _ _ hv => (readLast16_leavesArray hv hread).bind fun _ _ hw =>
        leavesArray_ok _ rfl hw
  refine hheader.bind fun wh t ht => ?_
  split
  · exact leavesArray_ok _ rfl ht
  · exact (drawRows_leavesArray mode _ 0 _ ht hread).bind fun _ _ hu => leavesArray_ok _ rfl (hu.withBlit none)

end

/-! ## Every instruction that closes no write or erase frame -/

theorem runCommand_array {op : Byte} {body : State → Res Resp} {s t : State} (h : runCommand op body s = .next t)
    (hbody : (body s).final.flash.mem = s.flash.mem) : t.flash.mem = s.flash.mem := by
  obtain ⟨-, hflash, -⟩ := (runCommand_answered h).same
  rw [hflash, hbody]

theorem Config.wf_opWrite_ne {cfg : Config} (h : cfg.wf = true) {op : Byte} (hop : op ∈ WireOp.others) :
    op ≠ cfg.opWrite := by
  simp only [Config.wf, Bool.and_eq_true] at h
  obtain ⟨-, hdistinct⟩ := h
  rintro rfl
  simp [hop] at hdistinct

theorem runFrame_array {cfg : Config} {p : PState} {op : Byte} {rest : List Byte} {s t : State}
    (h : runFrame op rest s = .next t) (hs : InPhaseOf cfg p s) (hwf : cfg.wf = true) (hop : op ∈ WireOp.others)
    (herase : op ≠ WireOp.erase) : t.flash.mem = s.flash.mem := by
  obtain ⟨-, hflash, -⟩ := (runFrame_answered h).same
  rw [hflash, (sendFrame_leavesArray op rest hs (Config.wf_opWrite_ne hwf hop) herase).array]

theorem exec_array (i : Instr) {cfg : Config} {p : PState} {s t : State} (hs : InPhaseOf cfg p s) (hwf : cfg.wf = true)
    (hi : mayChangeArray i = false) (hrun : exec i s = .next t) : t.flash.mem = s.flash.mem := by
  have hread := Config.wf_opWrite_ne_read hwf
  cases i with rw [exec] at hrun
  | select => exact runCommand_array hrun (select_array s)
  | transfer byte =>
    exact runCommand_array hrun (array_bind (require_array _ s) fun _ u =>
      array_bind (xferTracked_array byte u) fun _ _ => rfl)
  | init devDataPage devSavePage =>
    refine runCommand_array hrun ?_
    split <;> rfl
  | writecmd opcode => exact runCommand_array hrun (andRespond0_leavesArray (writeCmd_leavesArray _ hs)).array
  | writeenable => exact runCommand_array hrun (andRespond0_leavesArray (writeCmd_leavesArray _ hs)).array
  | wake => exact runCommand_array hrun (andRespond0_leavesArray (writeCmd_leavesArray _ hs)).array
  | sleep => exact runCommand_array hrun (andRespond0_leavesArray (writeCmd_leavesArray _ hs)).array
  | seek opcode addr => exact runCommand_array hrun (array_bind (seek_array opcode addr s) fun _ _ => rfl)
  | beginread addr => exact runCommand_array hrun (array_bind (beginRead_array addr s) fun _ _ => rfl)
  | seekdata offset => exact runCommand_array hrun (array_bind (seekData_array offset s) fun _ _ => rfl)
  | seeksave offset => exact runCommand_array hrun (array_bind (seekSave_array offset s) fun _ _ => rfl)
  | seekdataarray index elementSize extraOffset =>
    exact runCommand_array hrun (array_bind (seekData_array _ s) fun _ _ => rfl)
  | readpending => exact runCommand_array hrun (array_bind (readPending_array s) fun _ _ => rfl)
  | readpending16 =>
    exact runCommand_array hrun (array_bind (readPending_array s) fun _ u => array_bind (readPending_array u) fun _ _ => rfl)
  | readpending24 =>
    exact runCommand_array hrun (array_bind (readPending_array s) fun _ u => array_bind (readPending_array u) fun _ v =>
      array_bind (readPending_array v) fun _ _ => rfl)
  | readpending32 =>
    exact runCommand_array hrun (array_bind (readPending_array s) fun _ u => array_bind (readPending_array u) fun _ v =>
      array_bind (readPending_array v) fun _ w => array_bind (readPending_array w) fun _ _ => rfl)
  | readlast =>
    exact runCommand_array hrun (LeavesArray.bind (readLast_leavesArray hs hread) fun _ _ _ =>
      leavesArray_ok (P := fun _ => True) _ rfl trivial).array
  | readlast16 =>
    exact runCommand_array hrun (LeavesArray.bind (readLast16_leavesArray hs hread) fun _ _ _ =>
      leavesArray_ok (P := fun _ => True) _ rfl trivial).array
  | readlast24 =>
    exact runCommand_array hrun ((readPending_leavesArray hs).bind fun _ _ hu => (readPending_leavesArray hu).bind
      fun _ _ hv => (readLast_leavesArray hv hread).bind fun _ _ _ =>
        leavesArray_ok (P := fun _ => True) _ rfl trivial).array
  | readlast32 =>
    exact runCommand_array hrun ((readPending_leavesArray hs).bind fun _ _ hu => (readPending_leavesArray hu).bind
      fun _ _ hv => (readPending_leavesArray hv).bind fun _ _ hw => (readLast_leavesArray hw hread).bind fun _ _ _ =>
        leavesArray_ok (P := fun _ => True) _ rfl trivial).array
  | drawbitmap x y addr frame mode =>
    refine runCommand_array hrun (LeavesArray.bind (P := InPhaseOf cfg p) (Q := InPhaseOf cfg .idle)
      (require_inPhaseOf _ hs) fun _ u hu => ?_).array
    split
    · exact andRespond0_leavesArray (drawBitmap_leavesArray x y addr frame mode hu hread)
    · exact leavesArray_halt _ u
  | opReleasePd => exact runFrame_array hrun hs hwf (by decide) (by decide)
  | opPowerDown => exact runFrame_array hrun hs hwf (by decide) (by decide)
  | opWriteEnable => exact runFrame_array hrun hs hwf (by decide) (by decide)
  | opRead addr dummies => exact runFrame_array hrun hs hwf (by decide) (by decide)
  | opJedecId dummies => exact runFrame_array hrun hs hwf (by decide) (by decide)
  | opReadStatus1 dummies => exact runFrame_array hrun hs hwf (by decide) (by decide)
  | opReadStatus2 dummies => exact runFrame_array hrun hs hwf (by decide) (by decide)
  | _ => cases hi

/-- Settles O15: every `D` in these instructions closes a frame that neither writes nor erases. -/
theorem onlyClosingFramesChangesFlash : Obligations.OnlyClosingFramesChangesFlash := by
  intro i s t hinv hclear hi hrun a
  obtain ⟨⟨hwf, -⟩, hlive⟩ := (State.inv_iff s).mp hinv
  rw [exec_array i ⟨(hlive hclear).1, rfl⟩ hwf hi hrun]

end Sys2Proof.Machine
end

section
/-! PROOFS. Family 40, the bus primitive (`40_bus_primitive.md`): DESELECT (R121) and TRANSFER (R122); and the three commands of
family 41 that send a one-byte frame of their own, WRITEENABLE, WAKE and SLEEP (`41_protocol_engine.md` R141 to R143). -/

namespace Sys2Proof.Machine

/-! ## DESELECT -/

/-- The command after its phase check. -/
theorem exec_deselect {s : State} (h : s.pstate ≠ .reading) :
    exec .deselect s = runCommand 0x02 (fun s => andRespond0 (deselect s)) s := by
  rw [exec, execDeselect, runCommand, runCommand, require_of (by simpa using h), Res.bind_ok]

theorem exec_deselect_ok {s t : State} (hphase : s.pstate ≠ .reading) (hrun : deselect s = .ok () t) :
    exec .deselect s = .next (t.respond 0) :=
  (exec_deselect hphase).trans (runCommand_dataless_ok (action := deselect) hrun)

theorem exec_deselect_halt {s t : State} {why : Stop} (hphase : s.pstate ≠ .reading) (hrun : deselect s = .halt why t) :
    exec .deselect s = .next (t.raise (.command 0x02) s.pstate why) :=
  (exec_deselect hphase).trans (runCommand_halt (by rw [andRespond0, hrun, Res.bind_halt]))

theorem deselect_closed {s : State} (hi : s.inflight = false) (hcs : s.cs = false) : deselect s = .ok () s := by
  simp [deselect_eq, hi, hcs]

/-- The `D` of a frame that breaks no contract. -/
theorem deselect_unbroken {s : State} (hi : s.inflight = false) (hcs : s.cs = true)
    (hframe : ¬ s.flash.breaksErasure s.cfg) : deselect s = .ok () s.dropBus.closePhase := by
  have hbad : (!s.flash.bad && (s.flash.deselect s.cfg).bad) = false := by
    rw [Bool.and_eq_false_iff, Bool.not_eq_false', Bool.eq_false_iff, Ne, FlashPart.deselect_bad_iff]
    exact Classical.or_iff_not_imp_left.mpr fun hbad => not_or.mpr ⟨hbad, hframe⟩
  simp [deselect_eq, hi, hcs, hbad]

/-- The part at a `D` that breaks contract 2: it programs nothing and keeps the mark (`20_memory.md` R78; log 21). -/
theorem FlashPart.deselect_of_breaks {cfg : Config} {f : FlashPart} (h : f.breaksErasure cfg) :
    f.deselect cfg = { f with bad := true, n := 0 } := by
  obtain ⟨hstrict, hbad, hign, hwel, hop, hn, hmeets⟩ := h
  have hprogram : (programFrom cfg.flashBytes f.addr.toNat 0 f.buf f.mem).2 = true := by
    rw [programFrom_meets]
    simpa only [meetsUnerased, Nat.zero_add] using hmeets
  have h1 : f.n ≠ 1 := by omega
  have h4 : f.n ≠ 4 := by omega
  have hpos : 1 ≤ f.n := by omega
  simp [FlashPart.deselect, FlashPart.commit, FlashPart.program, FlashPart.release, hstrict, hbad, hign, hwel, ← hop, hn,
    hprogram, h1, h4, hpos]

theorem deselect_broken {s : State} (hi : s.inflight = false) (hcs : s.cs = true) (hframe : s.flash.breaksErasure s.cfg) :
    deselect s = .halt (.contract 2 s.cfg.opWrite) s.dropBus := by
  have hbroken := FlashPart.deselect_of_breaks hframe
  obtain ⟨-, hbad, -, -, hop, -⟩ := hframe
  simp [deselect_eq, hi, hcs, hbad, hbroken, hop]

/-- WE after the close of a frame outside READING (`10_state.md` R25). -/
theorem weAfterClose_notReading (opWrite : Byte) {phase : PState} (cmdop : Byte) (we : Bool) (h : phase ≠ .reading) :
    weAfterClose opWrite phase cmdop we =
      if phase = .cmdOpen then
        (if cmdop = opWrite ∨ cmdop = WireOp.erase then false else if cmdop = WireOp.writeEnable then true else we)
      else we := by
  simp [weAfterClose, h]

/-- Settles O17: the phase check, the check of INFLIGHT, and then `Deselect()` by the level of CS and by contract 2. -/
theorem deselectClosesFrame : Obligations.DeselectClosesFrame := by
  intro s
  refine ⟨fun hreading => ?_, fun hphase hi => ?_, fun hphase hi hcs => ?_, fun hphase hi hcs hframe => ?_,
    fun hphase hi hcs hframe => ?_⟩
  · rw [exec_misuse (i := .deselect) rfl (by simp [phaseAfter, hreading]), hreading]
  · exact exec_deselect_halt (why := .misuse) hphase (by rw [deselect_eq, if_pos hi])
  · exact exec_deselect_ok hphase (deselect_closed hi hcs)
  · rw [exec_deselect_ok hphase (deselect_unbroken hi hcs hframe), ← weAfterClose_notReading _ _ _ hphase]
    rfl
  · rw [exec_deselect_halt hphase (deselect_broken hi hcs hframe), State.raise, State.dropBus,
      FlashPart.deselect_of_breaks hframe]

/-! ## TRANSFER -/

/-- The byte breaks no contract that was not broken before. -/
def State.keepsContract (s : State) (b : Byte) : Prop := (!s.flash.bad && (s.issued b).flash.bad) = false

/-- A byte breaks contract 3 only as the opcode of an access to a strict part that sleeps (`20_memory.md` R78). -/
theorem State.keepsContract_of {s : State} {b : Byte}
    (h : s.cfg.strict = false ∨ s.flash.pd = false ∨ s.flash.bad = true ∨ s.cs = false ∨ 1 ≤ s.flash.n ∨
      hasAddress s.cfg b = false) : s.keepsContract b := by
  rw [State.keepsContract, State.issued_flash]
  cases hcs : s.cs with
  | false => simp
  | true =>
    rw [if_pos rfl, FlashPart.exchange_bad]
    rcases h with h | h | h | h | h | h
    · simp [h]
    · simp [h]
    · simp [h]
    · simp [hcs] at h
    · simp [show s.flash.n ≠ 0 by omega]
    · simp [h]

theorem issue_kept {b : Byte} {s : State} (hi : s.inflight = false) (h : s.keepsContract b) :
    issue b s = .ok () (s.issued b) := by
  rw [issue_eq, if_neg (by simp [hi]), if_neg (by rw [h]; decide)]

theorem xfer_kept {b : Byte} {s : State} (hi : s.canTransfer = true) (h : s.keepsContract b) :
    xfer b s = .ok (answerOf b s).1 (s.sent b) := by
  obtain ⟨hbus, hi⟩ := canTransfer_parts hi
  rw [xfer, issue_kept hi h, Res.bind_ok, wait_eq]
  simp [hbus, State.sent]

/-- The state in which TRANSFER sends its byte: in SELECTED the byte names the command (`40_bus_primitive.md` R122). -/
def State.tracked (s : State) (b : Byte) : State := if s.pstate = .selected then s.openCommand b else s

theorem xferTracked_eq (b : Byte) (s : State) : xferTracked b s = xfer b (s.tracked b) := rfl

/-- What naming the command leaves. -/
theorem State.tracked_spec (s : State) (b : Byte) :
    (s.tracked b).pstate = (if s.pstate = .selected then .cmdOpen else s.pstate) ∧
      (s.tracked b).cmdop = (if s.pstate = .selected then b else s.cmdop) ∧ (s.tracked b).cs = s.cs ∧
      (s.tracked b).we = s.we ∧ (s.tracked b).flash = s.flash ∧ (s.tracked b).trace = s.trace ∧
      (s.tracked b).responses = s.responses ∧ (s.tracked b).inflight = s.inflight ∧ (s.tracked b).sdr = s.sdr ∧
      (s.tracked b).cfg = s.cfg ∧ s.kept (s.tracked b) := by
  rw [State.tracked]
  split
  · exact ⟨rfl, rfl, rfl, rfl, rfl, rfl, rfl, rfl, rfl, rfl, by simp [State.kept]⟩
  · exact ⟨rfl, rfl, rfl, rfl, rfl, rfl, rfl, rfl, rfl, rfl, s.kept_refl⟩

theorem exec_transfer {b : Byte} {s : State} (h : s.pstate ≠ .reading) :
    exec (.transfer b) s = runCommand 0x03 (fun s => (xferTracked b s).bind fun r s => .ok (respOf r) s) s := by
  rw [exec, execTransfer, runCommand, runCommand, require_of (by simpa using h), Res.bind_ok]

/-- Whether the answer is a draw, and which byte it is, on an open bus. -/
theorem answerOf_open {b : Byte} {s : State} (hcs : s.cs = true) :
    (answerOf b s).2.1 = (s.flash.exchange s.cfg b).1.isNone ∧
      ∀ r : Byte, (s.flash.exchange s.cfg b).1 = some r → (answerOf b s).1 = r := by
  have hvalue := answerOf_value b s
  rw [if_pos hcs] at hvalue
  cases hr : (s.flash.exchange s.cfg b).1 with
  | none => simp_all
  | some r => simp_all

/-- Settles O18: the byte is sent in the phase it is given in, and its answer is the response. -/
theorem transferExchangesByte : Obligations.TransferExchangesByte := by
  intro b s
  refine ⟨fun hreading => ?_, fun hphase htransfer hsafe => ?_⟩
  · rw [exec_misuse (i := .transfer b) rfl (by simp [phaseAfter, hreading]), hreading]
  · obtain ⟨hbus, hi⟩ := canTransfer_parts htransfer
    obtain ⟨hpstate, hcmdop, hcs, hwe, hflash, htrace, hresponses, hinflight, -, hcfg, hkept⟩ := s.tracked_spec b
    have hrun : xferTracked b s = .ok (answerOf b (s.tracked b)).1 ((s.tracked b).sent b) := by
      rw [xferTracked_eq]
      refine xfer_kept (by simp [State.canTransfer, hcfg, hbus, hinflight, hi]) (State.keepsContract_of ?_)
      rw [hcfg, hflash, hcs]
      exact hsafe
    refine ⟨((s.tracked b).sent b).respond (respOf (answerOf b (s.tracked b)).1), (answerOf b (s.tracked b)).2.1, ?_, rfl,
      by simp, ?_, ?_, by simp [hcs], by simp [hwe], by simp [hpstate], by simp [hcmdop], fun hopen => ?_, fun hclosed => ?_, ?_⟩
    · exact (exec_transfer hphase).trans (runCommand_ok (by simp only [hrun, Res.bind_ok]))
    · simp [hresponses, respOf]
    · simp [htrace]
    · have hanswer := answerOf_open (b := b) (s := s.tracked b) (hcs.trans hopen)
      rw [hflash, hcfg] at hanswer
      exact ⟨by simp [hcs, hopen, hflash, hcfg], hanswer.1, by simpa using hanswer.2⟩
    · exact ⟨by simp [hcs, hclosed, hflash], answerOf_drawn_of_low _ _ (hcs.trans hclosed)⟩
    · exact State.kept_trans hkept (by simp [State.kept])

/-! ## WRITEENABLE, WAKE, SLEEP -/

theorem writeCmd_command (opcode op : Byte) {s : State} (h : s.canBeginFrame op = true) :
    ∃ t, runCommand opcode (fun s => andRespond0 (writeCmd op s)) s = .next t ∧ FrameSent op [] [0] s t := by
  obtain ⟨t, hrun, hsent⟩ := writeCmd_run op s h
  exact ⟨t.respond 0, runCommand_dataless_ok hrun, hsent.respond 0⟩

theorem weAfterClose_writeEnable {cfg : Config} (h : cfg.wf = true) (we : Bool) :
    weAfterClose cfg.opWrite .cmdOpen WireOp.writeEnable we = true := by
  have hwrite : WireOp.writeEnable ≠ cfg.opWrite := Config.wf_opWrite_ne h (by decide)
  have herase : WireOp.writeEnable ≠ WireOp.erase := by decide
  simp [weAfterClose, hwrite, herase]

/-- The close of a frame of any other of the eight opcodes but OP_ERASE leaves WE. -/
theorem weAfterClose_other {cfg : Config} (h : cfg.wf = true) {op : Byte} (hop : op ∈ WireOp.others)
    (herase : op ≠ WireOp.erase) (henable : op ≠ WireOp.writeEnable) (phase : PState) (we : Bool) :
    weAfterClose cfg.opWrite phase op we = we := by
  simp [weAfterClose, Config.wf_opWrite_ne h hop, herase, henable]

/-- The part after its opcode byte. -/
theorem FlashPart.exchange_opcode {cfg : Config} {f : FlashPart} (hn : f.n = 0) (hbad : f.bad = false) (op : Byte) :
    f.exchange cfg op = (none, f.takeOpcode cfg op) := by
  simp [FlashPart.exchange, hn, hbad]

/-- A release wakes the part, whether it slept or not (`20_memory.md` R75). -/
theorem FlashPart.release_frame (cfg : Config) (f : FlashPart) (hn : f.n = 0) (hbad : f.bad = false)
    (haccess : hasAddress cfg WireOp.releasePd = false) :
    ((f.feed cfg [WireOp.releasePd]).deselect cfg).pd = false := by
  have hdown : WireOp.releasePd ≠ WireOp.powerDown := by decide
  have henable : WireOp.releasePd ≠ WireOp.writeEnable := by decide
  rw [FlashPart.feed_cons, FlashPart.feed_nil, FlashPart.exchange_opcode hn hbad]
  simp [FlashPart.takeOpcode, FlashPart.deselect, FlashPart.commit, FlashPart.release, hn, haccess, hdown, henable]

/-- A power-down puts the part to sleep, or leaves it asleep. -/
theorem FlashPart.powerDown_frame (cfg : Config) (f : FlashPart) (hn : f.n = 0) (hbad : f.bad = false)
    (haccess : hasAddress cfg WireOp.powerDown = false) :
    ((f.feed cfg [WireOp.powerDown]).deselect cfg).pd = true := by
  have hrelease : WireOp.powerDown ≠ WireOp.releasePd := by decide
  have henable : WireOp.powerDown ≠ WireOp.writeEnable := by decide
  rw [FlashPart.feed_cons, FlashPart.feed_nil, FlashPart.exchange_opcode hn hbad]
  cases hpd : f.pd <;>
    simp [FlashPart.takeOpcode, FlashPart.deselect, FlashPart.commit, FlashPart.release, hn, haccess, hpd, hrelease, henable]

/-- An opcode of R101 other than the three addressed ones carries no address. -/
theorem hasAddress_other {cfg : Config} (h : cfg.wf = true) {op : Byte} (hop : op ∈ WireOp.others)
    (hread : op ≠ WireOp.read) (herase : op ≠ WireOp.erase) : hasAddress cfg op = false := by
  simp [hasAddress, hread, herase, Config.wf_opWrite_ne h hop]

/-- Settles O20: each is its one-byte frame, whose close sets WE, the latch or the power state. -/
theorem powerAndLatchCommands : Obligations.PowerAndLatchCommands := by
  intro s
  refine ⟨fun hwf hbegin => ?_, fun hwf hbegin => ?_, fun hwf hbegin => ?_, fun hphase => ⟨?_, ?_, ?_⟩⟩
  · obtain ⟨t, hrun, hsent⟩ := writeCmd_command 0x1B WireOp.writeEnable hbegin
    obtain ⟨-, -, -, hn, -⟩ := canBeginFrame_parts hbegin
    refine ⟨t, hrun, hsent, hsent.we.trans (weAfterClose_writeEnable hwf _), fun hbad hpd => ?_⟩
    rw [hsent.flash, FlashPart.writeEnable_frame s.cfg s.flash hn hbad hpd]
  · obtain ⟨t, hrun, hsent⟩ := writeCmd_command 0x1C WireOp.releasePd hbegin
    obtain ⟨-, -, -, hn, -⟩ := canBeginFrame_parts hbegin
    refine ⟨t, hrun, hsent, hsent.we.trans (weAfterClose_other hwf (by decide) (by decide) (by decide) _ _), fun hbad => ?_⟩
    rw [hsent.flash]
    exact FlashPart.release_frame _ _ hn hbad (hasAddress_other hwf (by decide) (by decide) (by decide))
  · obtain ⟨t, hrun, hsent⟩ := writeCmd_command 0x1D WireOp.powerDown hbegin
    obtain ⟨-, -, -, hn, -⟩ := canBeginFrame_parts hbegin
    refine ⟨t, hrun, hsent, hsent.we.trans (weAfterClose_other hwf (by decide) (by decide) (by decide) _ _), fun hbad => ?_⟩
    rw [hsent.flash]
    exact FlashPart.powerDown_frame _ _ hn hbad (hasAddress_other hwf (by decide) (by decide) (by decide))
  · exact runCommand_misuse (first := writeCmd _) (writeCmd_misuse _ hphase)
  · exact runCommand_misuse (first := writeCmd _) (writeCmd_misuse _ hphase)
  · exact runCommand_misuse (first := writeCmd _) (writeCmd_misuse _ hphase)

end Sys2Proof.Machine
end

section
/-! PROOFS. Family 42, the address translator: key slots, the commands before INIT, and the translation in numbers and as a map
of the address space (`20_memory.md` R53, R61 to R63; `42_address_dispatch.md` R166). Family 43: `Compose` and the shift, bit
by bit (`43_blitter.md` R194, R195). -/

namespace Sys2Proof.Machine

/-- The first byte is the more significant one (`20_memory.md` R54). -/
theorem join16_toNat (b0 b1 : Byte) : (join16 b0 b1).toNat = b0.toNat * 256 + b1.toNat := by
  rw [join16, BitVec.toNat_append, ← Nat.shiftLeft_add_eq_or_of_lt b1.isLt, Nat.shiftLeft_eq]

/-- Settles O36: the slot is `join16` of its two bytes, the more significant one by the parameter. -/
theorem keySlotJoinsTwoBytes : Obligations.KeySlotJoinsTwoBytes := by
  intro cfg pm a
  refine ⟨fun horder => ?_, fun horder => ?_⟩
  · rw [pmKey, horder]
    exact join16_toNat _ _
  · rw [pmKey, horder]
    exact join16_toNat _ _

/-- DRAWBITMAP checks the phase and INITED before the header read (`43_blitter.md` R180). -/
theorem exec_drawbitmap_uninit (x y : Half) (addr : Addr) (frame mode : Byte) {s : State} (hphase : canOpen s.pstate = true)
    (huninit : s.inited = false) :
    exec (.drawbitmap x y addr frame mode) s = .next { s with fault := some (.uninitialisedPage .data) } := by
  rw [exec, execDrawbitmap, runCommand, require_of hphase, Res.bind_ok, if_neg (Bool.eq_false_iff.mp huninit)]
  rfl

/-- Settles O40: after the phase check each of the six commands asks for its page. -/
theorem uninitialisedPageFaults : Obligations.UninitialisedPageFaults := by
  intro i region s hi huninit hphase
  cases i with
  | seekdata offset =>
    cases hi
    exact translatingCommand_uninit hphase (toDataAddress_uninit _ huninit)
  | seekdataarray index elementSize extraOffset =>
    cases hi
    exact translatingCommand_uninit hphase (toDataAddress_uninit _ huninit)
  | seeksave offset =>
    cases hi
    exact translatingCommand_uninit hphase (toSaveAddress_uninit _ huninit)
  | erasesaveblock logicalPage =>
    cases hi
    rw [exec_erasesaveblock]
    exact translatingCommand_uninit hphase (toSavePage_uninit _ huninit)
  | writesavepage logicalPage data =>
    cases hi
    rw [exec_writesavepage]
    exact translatingCommand_uninit hphase (toSavePage_uninit _ huninit)
  | drawbitmap x y addr frame mode =>
    cases hi
    exact exec_drawbitmap_uninit x y addr frame mode hphase huninit
  | _ => cases hi

/-- Settles O41: the arithmetic of the three functions, and the check of INITED before it. -/
theorem translationArithmetic : Obligations.TranslationArithmetic := by
  refine ⟨translate_toNat, fun page logical => ?_, arrayOffset_toNat, fun offset s hinited => ?_, fun logical s hinited => ?_,
    fun offset logical s huninit => ?_⟩
  · rw [savePageAddr_toNat]
    exact (Nat.mul_mod_mul_right 256 _ (2 ^ 16)).symm
  · exact ⟨toDataAddress_inited offset hinited, toSaveAddress_inited offset hinited⟩
  · exact toSavePage_inited logical hinited
  · exact ⟨toDataAddress_uninit offset huninit, toSaveAddress_uninit offset huninit, toSavePage_uninit logical huninit⟩

theorem shiftedPage_toNat (logical : Page) : (logical.setWidth 24 <<< 8 : Addr).toNat = logical.toNat * 256 := by
  rw [BitVec.toNat_shiftLeft, BitVec.toNat_setWidth, Nat.shiftLeft_eq]
  omega

/-- Settles O42: a translation is the addition of the page's base. -/
theorem translationLaws : Obligations.TranslationLaws := by
  refine ⟨fun page o1 o2 => (BitVec.add_assoc _ _ _).symm, fun page => (Equiv.addLeft (pageBase page)).bijective,
    fun page logical => BitVec.eq_of_toNat_eq ?_⟩
  rw [savePageAddr_toNat, translate_toNat, shiftedPage_toNat]
  omega

/-! ## Bits of the blitter -/

/-- Settles O51: by the mask's bit and the invert flag. -/
theorem composeTruthTable : Obligations.ComposeTruthTable := by
  intro mode b m e k _
  have hinvert : modeInvert mode = mode.getLsbD 1 := rfl
  rw [compose, hinvert]
  cases mode.getLsbD 1 <;> cases hm : m.getLsbD k <;> simp [hm]

theorem shifted16_getLsbD (v : Byte) (shift j : Nat) (hj : j < 16) :
    (shifted16 v shift).getLsbD j = (decide (shift ≤ j) && v.getLsbD (j - shift)) := by
  have hsub : j - shift < 16 := by omega
  simp only [shifted16, BitVec.getLsbD_shiftLeft, BitVec.getLsbD_setWidth, hj, hsub, decide_true, Bool.true_and]
  congr 1
  rw [← decide_not]
  exact decide_eq_decide.mpr Nat.not_lt

/-- Settles O52: the two bytes are the halves of the shifted word. -/
theorem shiftSpansTwoRows : Obligations.ShiftSpansTwoRows := by
  intro v shift j _ hj
  rw [← shifted16_getLsbD v shift j hj]
  split
  · rename_i hlow
    simp [shiftLo, hlow]
  · rename_i hhigh
    have hbit : j - 8 < 8 := by omega
    have hplace : 8 + (j - 8) = j := by omega
    simp [shiftHi, hbit, hplace]

end Sys2Proof.Machine
end

section
/-! PROOFS. What the part answers, byte by byte (`20_memory.md` R69, R71, R75 to R77): the frames that it answers with draws
only, and the data phase of a read. -/

namespace Sys2Proof.Machine

/-- A `T` event without an answer, as `00_scope.md` R11 writes it. -/
def Event.unanswered (b : Byte) : Event := .xfer b 0 true

namespace FlashPart

variable {cfg : Config} {f : FlashPart}

theorem talk_cons_none {b : Byte} (rest : List Byte) (h : (f.exchange cfg b).1 = none) :
    f.talk cfg (b :: rest) = Event.unanswered b :: (f.exchange cfg b).2.talk cfg rest := by
  rw [talk_cons, h]
  rfl

theorem talk_cons_some {b r : Byte} (rest : List Byte) (h : (f.exchange cfg b).1 = some r) :
    f.talk cfg (b :: rest) = .xfer b r false :: (f.exchange cfg b).2.talk cfg rest := by
  rw [talk_cons, h]

/-! ## Answers that are draws -/

/-- The opcode and the address bytes are answered by draws. -/
theorem exchange_none_of_short (b : Byte) (h : f.n ≤ 3) : (f.exchange cfg b).1 = none := by
  have hread : hasAddress cfg WireOp.read = true := rfl
  unfold exchange
  repeat' split
  all_goals simp_all

theorem talk_short (bytes : List Byte) (h : f.n + bytes.length ≤ 4) :
    f.talk cfg bytes = bytes.map Event.unanswered := by
  induction bytes generalizing f with
  | nil => rfl
  | cons b rest ih =>
    rw [List.length_cons] at h
    rw [talk_cons_none rest (exchange_none_of_short b (by omega)), ih (by rw [exchange_n]; omega), List.map_cons]

/-- A frame that the part ignores, or that is no read. -/
def silent (f : FlashPart) : Prop := 1 ≤ f.n ∧ (f.ign = true ∨ f.op ≠ WireOp.read)

theorem exchange_none_of_silent (b : Byte) (h : f.silent) : (f.exchange cfg b).1 = none := by
  obtain ⟨hn, h⟩ := h
  have hpos : f.n ≠ 0 := by omega
  unfold exchange
  repeat' split
  all_goals simp_all

/-- Past the opcode a byte leaves the opcode and whether the frame is ignored. -/
theorem exchange_ign (b : Byte) (h : 1 ≤ f.n) : (f.exchange cfg b).2.ign = f.ign := by
  have hpos : f.n ≠ 0 := by omega
  unfold exchange
  rw [if_neg hpos]
  repeat' split
  all_goals rfl

theorem exchange_silent (b : Byte) (h : f.silent) : (f.exchange cfg b).2.silent := by
  obtain ⟨hn, h⟩ := h
  refine ⟨by simp, ?_⟩
  rwa [exchange_ign b hn, exchange_op, if_neg (by omega)]

theorem talk_silent (bytes : List Byte) (h : f.silent) : f.talk cfg bytes = bytes.map Event.unanswered := by
  induction bytes generalizing f with
  | nil => rfl
  | cons b rest ih =>
    rw [talk_cons_none rest (exchange_none_of_silent b h), ih (exchange_silent b h), List.map_cons]

/-! ## The data phase of a read -/

/-- The part is in the data phase of a read, with `a mod FLASH_BYTES` in its cursor. -/
structure InData (cfg : Config) (a : Nat) (f : FlashPart) : Prop where
  bad : f.bad = false
  ign : f.ign = false
  op : f.op = WireOp.read
  n : 4 ≤ f.n
  cur : f.cur = cursorAt cfg a

theorem cursorAt_next (hcfg : cfg.wf = true) (a : Nat) : cursorAt cfg ((cursorAt cfg a).toNat + 1) = cursorAt cfg (a + 1) := by
  rw [cursorAt_toNat hcfg, cursorAt, cursorAt, Nat.mod_add_mod]

/-- The byte that the part answers, and the part after it. -/
theorem InData.exchange {a : Nat} (h : InData cfg a f) (hcfg : cfg.wf = true) (b : Byte) :
    f.exchange cfg b =
      (some (Mem.read .flash f.mem (a % cfg.flashBytes)), { f with n := f.n + 1, cur := cursorAt cfg (a + 1) }) := by
  rw [exchange_data cfg f b h.bad h.ign h.op h.n, h.cur, cursorAt_next hcfg, cursorAt_toNat hcfg]

theorem InData.next {a : Nat} (h : InData cfg a f) :
    InData cfg (a + 1) { f with n := f.n + 1, cur := cursorAt cfg (a + 1) } :=
  ⟨h.bad, h.ign, h.op, Nat.le_succ_of_le h.n, rfl⟩

theorem InData.feed {a : Nat} (h : InData cfg a f) (hcfg : cfg.wf = true) (bytes : List Byte) :
    f.feed cfg bytes = { f with n := f.n + bytes.length, cur := cursorAt cfg (a + bytes.length) } := by
  induction bytes generalizing f a with
  | nil => simp [← h.cur]
  | cons b rest ih =>
    rw [feed_cons, h.exchange hcfg, ih h.next]
    simp only [List.length_cons, Nat.add_comm rest.length 1, Nat.add_assoc]

/-- A run of bytes in the data phase answers the bytes of the array in order, with wrap (`20_memory.md` R71). -/
theorem InData.talk {a : Nat} (h : InData cfg a f) (hcfg : cfg.wf = true) (bytes : List Byte) :
    f.talk cfg bytes = (List.range bytes.length).map fun k =>
      Event.xfer (bytes.getD k 0) (Mem.read .flash f.mem ((a + k) % cfg.flashBytes)) false := by
  induction bytes generalizing f a with
  | nil => rfl
  | cons b rest ih =>
    rw [talk_cons_some rest (by rw [h.exchange hcfg]), h.exchange hcfg, ih h.next, List.length_cons,
      List.range_succ_eq_map, List.map_cons, List.map_map]
    congr 1
    refine List.map_congr_left fun k _ => ?_
    rw [Function.comp_apply, List.getD_cons_succ, Nat.succ_eq_add_one, Nat.add_assoc, Nat.add_comm 1 k]

/-- The opcode and the address of a read bring an awake part into the data phase at the address. -/
theorem feed_read (a : Addr) (hn : f.n = 0) (hbad : f.bad = false) (hpd : f.pd = false) :
    f.feed cfg (WireOp.read :: wireAddr a) =
      { f with n := 4, op := WireOp.read, addr := a, buf := [], ign := false, bad := false, cur := cursorAt cfg a.toNat } :=
  feed_addressed cfg f WireOp.read a hn hbad hpd rfl

theorem inData_of_read (cfg : Config) (f : FlashPart) (a : Addr) :
    InData cfg a.toNat
      { f with n := 4, op := WireOp.read, addr := a, buf := [], ign := false, bad := false, cur := cursorAt cfg a.toNat } :=
  ⟨rfl, rfl, rfl, Nat.le_refl 4, rfl⟩

/-! ## Frames that commit nothing -/

/-- A frame of an opcode that the part does not act on leaves it, but for the count of bytes (`20_memory.md` R70). -/
theorem deselect_inert (henable : f.op ≠ WireOp.writeEnable) (hwrite : f.op ≠ cfg.opWrite) (herase : f.op ≠ WireOp.erase)
    (hdown : f.op ≠ WireOp.powerDown) (hrelease : f.op ≠ WireOp.releasePd) : f.deselect cfg = { f with n := 0 } := by
  have hcommit : f.commit cfg = f := by simp [commit, henable, hwrite, herase, hdown]
  have hawake : f.release = f := by simp [release, hrelease]
  simp only [deselect, hcommit, ite_self, hawake]

theorem deselect_read (hop : f.op = WireOp.read) (hread : cfg.opWrite ≠ WireOp.read) : f.deselect cfg = { f with n := 0 } :=
  deselect_inert (hop ▸ by decide) (hop ▸ hread.symm) (hop ▸ by decide) (hop ▸ by decide) (hop ▸ by decide)

/-- A frame that the part ignores leaves it, unless it is a release (`20_memory.md` R70, R75). -/
theorem deselect_ignored (hign : f.ign = true) (hrelease : f.op ≠ WireOp.releasePd) : f.deselect cfg = { f with n := 0 } := by
  have hawake : f.release = f := by simp [release, hrelease]
  simp [deselect, hign, hawake]

/-- A part that is past the opcode of a frame without an address, or of one it ignores, takes only the payload of a page
write. -/
theorem feed_cur_of_silent (bytes : List Byte) (h : f.silent) (haccess : f.ign = true ∨ hasAddress cfg f.op = false) :
    (f.feed cfg bytes).cur = f.cur ∧ (f.feed cfg bytes).ign = f.ign := by
  induction bytes generalizing f with
  | nil => exact ⟨rfl, rfl⟩
  | cons b rest ih =>
    have hign := exchange_ign (cfg := cfg) b h.1
    have hop : (f.exchange cfg b).2.op = f.op := by rw [exchange_op, if_neg (by have := h.1; omega)]
    have hcur : (f.exchange cfg b).2.cur = f.cur := by
      have hpos : f.n ≠ 0 := by have := h.1; omega
      have hread := h.2
      unfold exchange
      repeat' split
      all_goals simp_all
    obtain ⟨hrest, hkeep⟩ := ih (exchange_silent b h) (by rwa [hign, hop])
    exact ⟨hrest.trans hcur, hkeep.trans hign⟩

end FlashPart

/-! ## Frames that only draws answer -/

open FlashPart in
/-- Settles O49: past its opcode the frame is ignored to its end. -/
theorem sleepingPartIgnoresFrames : Obligations.SleepingPartIgnoresFrames := by
  intro cfg f op rest hpd hbad hn hop hsafe
  have hopcode := exchange_opcode (cfg := cfg) hn hbad op
  have hbroken : (cfg.strict && f.pd && hasAddress cfg op) = false := by
    rcases hsafe with hsafe | hsafe <;> simp [hsafe]
  have hign : (f.takeOpcode cfg op).ign = true := by simp [takeOpcode, hpd, hop]
  have hsilent : (f.takeOpcode cfg op).silent := ⟨by simp [takeOpcode], .inl hign⟩
  obtain ⟨hcur, hignored⟩ := feed_cur_of_silent (cfg := cfg) rest hsilent (.inl hign)
  have hfeed : f.feed cfg (op :: rest) = (f.takeOpcode cfg op).feed cfg rest := by rw [feed_cons, hopcode]
  have hend : (f.feed cfg (op :: rest)).deselect cfg = { (f.takeOpcode cfg op).feed cfg rest with n := 0 } := by
    rw [hfeed]
    exact deselect_ignored (hignored.trans hign) (by rw [feed_op _ _ _ hsilent.1]; exact hop)
  rw [hend]
  refine ⟨?_, feed_mem _ _ _, hcur, feed_wel _ _ _, (feed_pd _ _ _).trans hpd, ?_⟩
  · rw [talk_cons_none rest (by rw [hopcode]), hopcode, talk_silent rest hsilent]
    rfl
  · exact (feed_bad_same cfg _ rest fun _ _ => .inr hsilent.1).trans hbroken

open FlashPart in
/-- Settles O50: past such an opcode the part answers nothing, and the close acts on no frame of that opcode. -/
theorem otherOpcodesHaveNoEffect : Obligations.OtherOpcodesHaveNoEffect := by
  intro cfg f op rest hn hbad haccess hrelease hdown henable
  obtain ⟨hread, hwrite, herase⟩ : op ≠ WireOp.read ∧ op ≠ cfg.opWrite ∧ op ≠ WireOp.erase := by
    simpa [hasAddress, and_assoc] using haccess
  have hopcode := exchange_opcode (cfg := cfg) hn hbad op
  have hsilent : (f.takeOpcode cfg op).silent := ⟨by simp [takeOpcode], .inr hread⟩
  have hop : ((f.takeOpcode cfg op).feed cfg rest).op = op := feed_op _ _ _ hsilent.1
  have hfeed : f.feed cfg (op :: rest) = (f.takeOpcode cfg op).feed cfg rest := by rw [feed_cons, hopcode]
  have hend : (f.feed cfg (op :: rest)).deselect cfg = { (f.takeOpcode cfg op).feed cfg rest with n := 0 } := by
    rw [hfeed]
    exact deselect_inert (by rwa [hop]) (by rwa [hop]) (by rwa [hop]) (by rwa [hop]) (by rwa [hop])
  rw [hend]
  refine ⟨?_, feed_mem _ _ _, (feed_cur_of_silent rest hsilent (.inr haccess)).1, feed_wel _ _ _, feed_pd _ _ _, ?_⟩
  · rw [talk_cons_none rest (by rw [hopcode]), hopcode, talk_silent rest hsilent]
    rfl
  · refine (feed_bad_same cfg _ rest fun _ _ => .inr hsilent.1).trans ?_
    simp [takeOpcode, haccess]

end Sys2Proof.Machine
end

section
/-! PROOFS. The wire frames as instructions (`30_encoding.md` R91 to R93, R101; log 3): each is sent whole, and OP_READ answers
the bytes of the array (`20_memory.md` R71). -/

namespace Sys2Proof.Machine

/-- A frame that is sent whole ends the instruction without a response. -/
theorem runFrame_ok {op : Byte} {rest : List Byte} {s t : State} (h : sendFrame op rest s = .ok () t) :
    runFrame op rest s = .next t := by
  rw [runFrame, h]

theorem runFrame_halt {op : Byte} {rest : List Byte} {s t : State} {why : Stop} (h : sendFrame op rest s = .halt why t) :
    runFrame op rest s = .next (t.raise (.frame op) s.pstate why) := by
  rw [runFrame, h]

theorem sendFrame_misuse (op : Byte) (rest : List Byte) {s : State} (h : canOpen s.pstate = false) :
    sendFrame op rest s = .halt .misuse s := by
  rw [sendFrame, require_not h, Res.bind_halt]

/-- A frame whose close cannot break contract 2 is sent where it can be opened. -/
theorem runFrame_sent {op : Byte} {rest : List Byte} {s : State} (h : s.canBeginFrame op = true)
    (hclose : closesSafely s.cfg op rest) : ∃ t, runFrame op rest s = .next t ∧ FrameSent op rest [] s t := by
  obtain ⟨t, hrun, hsent⟩ := sendFrame_run op rest s h hclose
  exact ⟨t, runFrame_ok hrun, hsent⟩

/-- The frame of one of the eight opcodes that are not OP_WRITE programs nothing. -/
theorem closesSafely_other {cfg : Config} (h : cfg.wf = true) {op : Byte} (hop : op ∈ WireOp.others) (rest : List Byte) :
    closesSafely cfg op rest :=
  .inr (.inl (Config.wf_opWrite_ne h hop))

/-- A frame opened, its bytes sent; what remains is the `D`. -/
theorem sendFrame_opened {op : Byte} (rest : List Byte) {s : State} (h : s.canBeginFrame op = true) :
    ∃ u, sendFrame op rest s = deselect u ∧ FrameOpened op rest [] s u := by
  obtain ⟨htransfer, hopen, -, -, -⟩ := canBeginFrame_parts h
  obtain ⟨t, runOpcode, opened⟩ := open_run op s h
  obtain ⟨u, runRest, openedRest⟩ := opened.sendMore (canTransfer_parts htransfer).1 rest
  refine ⟨u, ?_, openedRest⟩
  rw [sendFrame, require_of hopen, Res.bind_ok, runOpcode, Res.bind_ok, runRest, Res.bind_ok]

/-- A frame of OP_WRITE is sent where its close breaks no contract. -/
theorem runFrame_write {a : Addr} {data : List Byte} {s : State} (h : s.canBeginFrame s.cfg.opWrite = true)
    (hunbroken : ((s.flash.feed s.cfg (s.cfg.opWrite :: (wireAddr a ++ data))).deselect s.cfg).bad =
      (s.flash.feed s.cfg (s.cfg.opWrite :: (wireAddr a ++ data))).bad) :
    ∃ t, exec (.opWrite a data) s = .next t ∧ FrameSent s.cfg.opWrite (wireAddr a ++ data) [] s t := by
  obtain ⟨u, hrun, hopen⟩ := sendFrame_opened (wireAddr a ++ data) h
  obtain ⟨hdeselect, hsent⟩ := hopen.close_unbroken (by rw [State.kept_cfg hopen.kept, hopen.flash]; exact hunbroken)
  exact ⟨_, runFrame_ok (hrun.trans hdeselect), hsent⟩

/-- Without the latch the close of a frame breaks no contract. -/
theorem FlashPart.deselect_bad_unlatched (cfg : Config) {f : FlashPart} (h : f.wel = false) :
    (f.deselect cfg).bad = f.bad := by
  rw [Bool.eq_iff_iff, FlashPart.deselect_bad_iff]
  refine or_iff_left ?_
  rintro ⟨-, -, -, hwel, -⟩
  rw [h] at hwel
  cases hwel

/-- Settles O45: a frame of the eight opcodes can break nothing at its `D`, one of OP_WRITE only by contract 2. -/
theorem wireFramesSent : Obligations.WireFramesSent := by
  intro addr bytes s
  refine ⟨fun hwf => ⟨?_, ?_, ?_, ?_, ?_, ?_, ?_, ?_, fun hbegin hsafe => ?_⟩, fun i op hphase hwire hop => ?_⟩
  · exact fun hbegin => runFrame_sent hbegin (closesSafely_other hwf (by decide) _)
  · exact fun hbegin => runFrame_sent hbegin (closesSafely_other hwf (by decide) _)
  · exact fun hbegin => runFrame_sent hbegin (closesSafely_other hwf (by decide) _)
  · exact fun hbegin => runFrame_sent hbegin (closesSafely_other hwf (by decide) _)
  · exact fun hbegin => runFrame_sent hbegin (closesSafely_other hwf (by decide) _)
  · exact fun hbegin => runFrame_sent hbegin (closesSafely_other hwf (by decide) _)
  · exact fun hbegin => runFrame_sent hbegin (closesSafely_other hwf (by decide) _)
  · exact fun hbegin => runFrame_sent hbegin (closesSafely_other hwf (by decide) _)
  · obtain ⟨-, -, -, hn, hawake⟩ := canBeginFrame_parts hbegin
    rw [(hasAddress_iff _ _).mpr (.inr (.inl rfl)), Bool.not_true, Bool.or_false] at hawake
    refine runFrame_write hbegin ?_
    rcases hsafe with hstrict | hbad | hwel | herased
    · exact FlashPart.write_frame_unbroken _ _ _ _ hn hawake (.inl hstrict)
    · exact FlashPart.write_frame_unbroken _ _ _ _ hn hawake (.inr (.inl hbad))
    · exact FlashPart.deselect_bad_unlatched _ ((FlashPart.feed_wel _ _ _).trans hwel)
    · exact FlashPart.write_frame_unbroken _ _ _ _ hn hawake (.inr (.inr herased))
  · obtain ⟨op', rest, hfirst, hframe⟩ := exec_wire hwire s
    cases hop.symm.trans hfirst
    rw [hframe]
    exact runFrame_halt (why := .misuse) (sendFrame_misuse _ rest hphase)

/-- The events of the opcode and the address of a frame. -/
theorem FlashPart.talk_addressed (cfg : Config) {f : FlashPart} (op : Byte) (a : Addr) (hn : f.n = 0) :
    f.talk cfg (op :: wireAddr a) = (op :: wireAddr a).map Event.unanswered :=
  FlashPart.talk_short _ (by rw [hn]; exact Nat.le_refl 4)

/-- The whole read frame at an awake part: the address is answered by draws, the rest by the array. -/
theorem FlashPart.talk_read {cfg : Config} {f : FlashPart} (hcfg : cfg.wf = true) (a : Addr) (dummies : List Byte)
    (hn : f.n = 0) (hbad : f.bad = false) (hpd : f.pd = false) :
    f.talk cfg (WireOp.read :: (wireAddr a ++ dummies)) = (WireOp.read :: wireAddr a).map Event.unanswered ++
      (List.range dummies.length).map fun k =>
        Event.xfer (dummies.getD k 0) (Mem.read .flash f.mem ((a.toNat + k) % cfg.flashBytes)) false := by
  rw [← List.cons_append, FlashPart.talk_append, FlashPart.talk_addressed _ _ _ hn, FlashPart.feed_read a hn hbad hpd,
    (FlashPart.inData_of_read cfg f a).talk hcfg]

theorem FlashPart.feed_read_data {cfg : Config} {f : FlashPart} (hcfg : cfg.wf = true) (a : Addr) (dummies : List Byte)
    (hn : f.n = 0) (hbad : f.bad = false) (hpd : f.pd = false) :
    f.feed cfg (WireOp.read :: (wireAddr a ++ dummies)) =
      { f with n := 4 + dummies.length, op := WireOp.read, addr := a, buf := [], ign := false, bad := false,
               cur := cursorAt cfg (a.toNat + dummies.length) } := by
  rw [← List.cons_append, FlashPart.feed_append, FlashPart.feed_read a hn hbad hpd,
    (FlashPart.inData_of_read cfg f a).feed hcfg]

/-- Settles O47: the frame brings the part into the data phase at the address, and its `D` commits nothing. -/
theorem wireReadAnswersArray : Obligations.WireReadAnswersArray := by
  intro addr dummies s hcfg hbegin hbad hpd
  obtain ⟨-, -, -, hn, -⟩ := canBegin_parts hbegin
  have hread := Config.wf_opWrite_ne_read hcfg
  obtain ⟨t, hrun, hsent⟩ := runFrame_sent (canBegin_frame hbegin WireOp.read)
    (closesSafely_other hcfg (by decide) (wireAddr addr ++ dummies))
  have hflash := hsent.flash
  rw [FlashPart.feed_read_data hcfg addr dummies hn hbad hpd, FlashPart.deselect_read rfl hread] at hflash
  refine ⟨t, hrun, ?_, ?_, fun a => ?_⟩
  · rw [hsent.wire, FlashPart.talk_read hcfg addr dummies hn hbad hpd]
    simp only [List.append_assoc]
    rfl
  · rw [hflash]
    exact cursorAt_toNat hcfg _
  · rw [hflash]

end Sys2Proof.Machine
end

section
/-! PROOFS. The pipelined read as a whole (`41_protocol_engine.md` R146; `20_memory.md` R71): a read that streams the array, its
three primitives on it, the law of the sequence, and that idle time between two of its commands cannot be told
(`10_state.md` R23). -/

namespace Sys2Proof.Machine

/-! ## Idle time -/

section
variable {s : State} (hphase : s.pstate = .reading) (hi : s.inflight = true) (hbus : s.cfg.busOk = true)
include hphase hi hbus

/-- Whether SHIFTER has completed the outstanding transfer makes no difference to a harvest. -/
theorem readPending_shifted : readPending s.shifted = readPending s := by
  have hwait : wait s.shifted = wait s := by simp [wait_eq, hi, hbus]
  rw [readPending, readPending, require_of (by simp [hphase]), require_of (by simp [hphase]), Res.bind_ok, Res.bind_ok, hwait]

theorem readLast_shifted : readLast s.shifted = readLast s := by
  have hwait : wait s.shifted = wait s := by simp [wait_eq, hi, hbus]
  rw [readLast, readLast, require_of (by simp [hphase]), require_of (by simp [hphase]), Res.bind_ok, Res.bind_ok, hwait]

theorem readLast16_shifted : readLast16 s.shifted = readLast16 s := by
  rw [readLast16, readLast16, readPending_shifted hphase hi hbus]

end

theorem runCommand_shifted {α : Type} {op : Byte} {first : State → Res α} {next : α → State → Res Resp} {s : State}
    (h : first s.shifted = first s) :
    runCommand op (fun s => (first s).bind next) s.shifted = runCommand op (fun s => (first s).bind next) s := by
  rw [runCommand, runCommand, h]
  rfl

/-- Settles O28: every harvesting command starts with a harvest, which waits for the transfer itself. -/
theorem idleTimeInvisibleInRead : Obligations.IdleTimeInvisibleInRead := by
  intro i s hi hphase hinflight hbus
  have hpending := readPending_shifted hphase hinflight hbus
  have hlast := readLast_shifted hphase hinflight hbus
  have hlast16 := readLast16_shifted hphase hinflight hbus
  cases i with
  | readpending => exact runCommand_shifted hpending
  | readpending16 => exact runCommand_shifted hpending
  | readpending24 => exact runCommand_shifted hpending
  | readpending32 => exact runCommand_shifted hpending
  | readlast => exact runCommand_shifted hlast
  | readlast16 => exact runCommand_shifted hlast16
  | readlast24 => exact runCommand_shifted hpending
  | readlast32 => exact runCommand_shifted hpending
  | _ => cases hi

/-! ## A read that streams the array -/

/-- In a pipelined read of the array `m` on a part that heeds it: the byte at `a mod FLASH_BYTES` is outstanding, the cursor is
one past it (`10_state.md` R23; `20_memory.md` R71). -/
structure Streaming (cfg : Config) (m : Mem) (a : Nat) (s : State) : Prop where
  cfg_eq : s.cfg = cfg
  mem : s.flash.mem = m
  canHarvest : s.canHarvest = true
  cmdop : s.cmdop = WireOp.read
  outstanding : s.outstanding = Mem.read .flash m (a % cfg.flashBytes)
  inData : s.flash.InData cfg (a + 1)

/-- The byte of the array at `a`, with wrap. -/
def streamByte (cfg : Config) (m : Mem) (a : Nat) : Byte := Mem.read .flash m (a % cfg.flashBytes)

/-- The event of a dummy byte answered by the array. -/
def streamEvent (cfg : Config) (m : Mem) (a : Nat) : Event := .xfer dummyByte (streamByte cfg m a) false

section
variable {cfg : Config} {m : Mem} {a : Nat} {s : State}

/-- What a stream depends on: neither the framebuffer nor the responses. -/
theorem Streaming.congr {t : State} (h : Streaming cfg m a s) (hpstate : t.pstate = s.pstate) (hcs : t.cs = s.cs)
    (hinflight : t.inflight = s.inflight) (hpending : t.pending = s.pending) (hsdr : t.sdr = s.sdr)
    (hcmdop : t.cmdop = s.cmdop) (hflash : t.flash = s.flash) (hcfg : t.cfg = s.cfg) : Streaming cfg m a t where
  cfg_eq := hcfg.trans h.cfg_eq
  mem := hflash ▸ h.mem
  canHarvest := by
    have hsame : t.canHarvest = s.canHarvest := by simp only [State.canHarvest, hpstate, hcs, hflash, hcfg]
    exact hsame.trans h.canHarvest
  cmdop := hcmdop.trans h.cmdop
  outstanding := by
    have hsame : t.outstanding = s.outstanding := by simp only [State.outstanding, hinflight, hpending, hsdr]
    exact hsame.trans h.outstanding
  inData := hflash ▸ h.inData

theorem Streaming.respond (h : Streaming cfg m a s) (v : Resp) : Streaming cfg m a (s.respond v) :=
  h.congr rfl rfl rfl rfl rfl rfl rfl rfl

/-- A read opened on an awake part streams from its address. -/
theorem ReadOpened.streaming {addr : Addr} {given : List Resp} {t : State} (h : ReadOpened addr given s t)
    (hcfg : s.cfg.wf = true) (hbegin : s.canBegin = true) (hbad : s.flash.bad = false) (hpd : s.flash.pd = false) :
    Streaming s.cfg s.flash.mem addr.toNat t := by
  obtain ⟨-, -, -, hn, -⟩ := canBegin_parts hbegin
  have hfirst := FlashPart.exchange_first_data s.flash addr dummyByte hcfg hn hbad hpd
  have hflash : t.flash =
      ((s.flash.feed s.cfg [WireOp.read, addrHi addr, addrMid addr, addrLo addr]).exchange s.cfg dummyByte).2 := h.flash
  rw [hfirst] at hflash
  exact ⟨State.kept_cfg h.kept, by rw [hflash], h.canHarvest hbegin (Config.wf_opWrite_ne_read hcfg), h.cmdop,
    h.outstanding _ (by rw [hfirst]), by rw [hflash]; exact ⟨rfl, rfl, rfl, Nat.le_succ 4, rfl⟩⟩

/-- The wire of a read opened on a part that heeds it. -/
theorem ReadOpened.wire_eq {addr : Addr} {given : List Resp} {t : State} (h : ReadOpened addr given s t)
    (hcfg : s.cfg.wf = true) (hbegin : s.canBegin = true) (hbad : s.flash.bad = false) (hpd : s.flash.pd = false) :
    t.wire = s.wire ++ s.opening ++ (WireOp.read :: wireAddr addr).map Event.unanswered ++
      [streamEvent s.cfg s.flash.mem addr.toNat] := by
  obtain ⟨-, -, -, hn, -⟩ := canBegin_parts hbegin
  rw [h.wire]
  have htalk := FlashPart.talk_read hcfg addr [dummyByte] hn hbad hpd
  rw [show [WireOp.read, addrHi addr, addrMid addr, addrLo addr, dummyByte] =
    WireOp.read :: (wireAddr addr ++ [dummyByte]) from rfl, htalk]
  simp [streamEvent, streamByte]

/-- One harvest of a stream: its byte, and the stream one further. -/
theorem Streaming.readPending_run (h : Streaming cfg m a s) (hcfg : cfg.wf = true) :
    ∃ t, readPending s = .ok (streamByte cfg m a) t ∧ ByteHarvested [] s t ∧ Streaming cfg m (a + 1) t ∧
      t.wire = s.wire ++ [streamEvent cfg m (a + 1)] := by
  obtain ⟨t, hrun, hbyte⟩ := Machine.readPending_run s h.canHarvest
  have hdata := h.inData.exchange hcfg dummyByte
  have hflash : t.flash = (s.flash.exchange cfg dummyByte).2 := by rw [hbyte.flash, h.cfg_eq]; rfl
  rw [hdata] at hflash
  refine ⟨t, by rw [hrun, h.outstanding, streamByte], hbyte, ?_, ?_⟩
  · exact ⟨(State.kept_cfg hbyte.kept).trans h.cfg_eq, by rw [hflash]; exact h.mem, hbyte.canHarvest h.canHarvest,
      hbyte.cmdop.trans h.cmdop, hbyte.outstanding _ (by rw [h.cfg_eq, hdata, h.mem]), by rw [hflash]; exact h.inData.next⟩
  · rw [hbyte.wire, h.cfg_eq, FlashPart.talk_cons_some [] (by rw [hdata]), h.mem]
    rfl

/-- The last harvest of a stream: its byte, and the bus closed with nothing committed. -/
theorem Streaming.readLast_run (h : Streaming cfg m a s) (hcfg : cfg.wf = true) :
    ∃ t, readLast s = .ok (streamByte cfg m a) t ∧ ReadEnded [] s t ∧ t.flash = { s.flash with n := 0 } ∧ t.we = s.we := by
  obtain ⟨t, hrun, hend⟩ := Machine.readLast_run s h.canHarvest
  have hread := Config.wf_opWrite_ne_read hcfg
  refine ⟨t, by rw [hrun, h.outstanding, streamByte], hend, ?_, ?_⟩
  · rw [hend.flash, h.cfg_eq, FlashPart.deselect_read h.inData.op hread]
  · rw [hend.we, h.cmdop, h.cfg_eq, weAfterClose_read hread]

end

/-! ## Sequences of instructions -/

theorem exec_readpending_ok {b : Byte} {s t : State} (h : readPending s = .ok b t) :
    exec .readpending s = .next (t.respond (respOf b)) := by
  rw [exec, execReadpending]
  exact runCommand_ok (by rw [h, Res.bind_ok])

theorem exec_readlast_ok {b : Byte} {s t : State} (h : readLast s = .ok b t) :
    exec .readlast s = .next (t.respond (respOf b)) := by
  rw [exec, execReadlast]
  exact runCommand_ok (by rw [h, Res.bind_ok])

@[simp] theorem State.respond_wire (s : State) (v : Resp) : (s.respond v).wire = s.wire := rfl

theorem runList_cons {i : Instr} {s t : State} (rest : List Instr) (hrun : exec i s = .next t) (hclear : t.clear = true) :
    runList (i :: rest) s = runList rest t := by
  simp only [runList, hrun, hclear, if_true]

theorem State.clear_of_kept {s t : State} (h : s.kept t) : t.clear = s.clear := by
  obtain ⟨-, -, -, -, hfault, hrefused, hstuck, -⟩ := h
  rw [State.clear, State.clear, hfault, hrefused, hstuck]

theorem runList_append (is js : List Instr) (s : State) : runList (is ++ js) s = (runList is s).bind (runList js) := by
  induction is generalizing s with
  | nil => rfl
  | cons i rest ih =>
    simp only [List.cons_append, runList]
    cases exec i s with
    | next t => cases ht : t.clear <;> simp [ih, ht]
    | fault f => rfl
    | refused r => rfl

/-- A list that counts up, with its first element apart. -/
theorem map_range_succ {α : Type} (f : Nat → α) (k : Nat) :
    (List.range (k + 1)).map f = f 0 :: (List.range k).map fun j => f (1 + j) := by
  rw [List.range_succ_eq_map, List.map_cons, List.map_map]
  exact congrArg _ (List.map_congr_left fun j _ => by rw [Function.comp_apply, Nat.add_comm 1 j])

/-- `k` READPENDING and a READLAST on a stream: the bytes from the outstanding one on, and the bus closed. -/
theorem Streaming.runList_harvests {cfg : Config} {m : Mem} {a : Nat} {s : State} (k : Nat) (h : Streaming cfg m a s)
    (hcfg : cfg.wf = true) (hclear : s.clear = true) :
    ∃ t, runList (List.replicate k .readpending ++ [.readlast]) s = some t ∧
      t.responses = s.responses ++ (List.range (k + 1)).map (fun j => (streamByte cfg m (a + j)).setWidth 32) ∧
      t.wire = s.wire ++ (List.range k).map (fun j => streamEvent cfg m (a + (1 + j))) ++ [.desel] ∧
      t.closed = true ∧ t.flash.mem = m ∧ s.kept t := by
  induction k generalizing a s with
  | zero =>
    obtain ⟨t, hrun, hend, hflash, -⟩ := h.readLast_run hcfg
    have hexec := exec_readlast_ok hrun
    refine ⟨t.respond (respOf (streamByte cfg m a)), ?_, ?_, ?_, ?_, ?_, hend.kept⟩
    · exact runList_cons [] hexec ((State.clear_of_kept hend.kept).trans hclear)
    · rw [State.respond_responses, hend.responses, List.append_nil]
      rfl
    · simpa using hend.wire
    · simp [State.closed, hend.cs, hend.pstate, hend.inflight]
    · rw [State.respond_flash, hflash]
      exact h.mem
  | succ k ih =>
    obtain ⟨t, hrun, hbyte, hstream, hwire⟩ := h.readPending_run hcfg
    have hexec := exec_readpending_ok hrun
    have hclear' : (t.respond (respOf (streamByte cfg m a))).clear = true := (State.clear_of_kept hbyte.kept).trans hclear
    obtain ⟨u, hrest, hresponses, hwire', hclosed, hmem, hkept⟩ := ih (hstream.respond (respOf (streamByte cfg m a))) hclear'
    refine ⟨u, ?_, ?_, ?_, hclosed, hmem, State.kept_trans hbyte.kept hkept⟩
    · rw [List.replicate_succ, List.cons_append, runList_cons _ hexec hclear', hrest]
    · rw [hresponses, State.respond_responses, hbyte.responses, map_range_succ _ (k + 1)]
      simp only [List.append_nil, List.append_assoc, List.cons_append, List.nil_append, Nat.add_assoc, Nat.add_zero]
      rfl
    · rw [hwire', State.respond_wire, hwire, map_range_succ _ k]
      simp only [List.append_assoc, List.cons_append, List.nil_append, Nat.add_assoc, Nat.add_zero]

/-- Settles O27: BEGINREAD opens a stream at the address, and the harvests take it to its end. -/
theorem pipelinedReadLaw : Obligations.PipelinedReadLaw := by
  intro addr k s hcfg hclear hbegin hpd hbad
  obtain ⟨t, hrun, hread⟩ := beginRead_run addr s hbegin
  have hexec : exec (.beginread addr) s = .next (t.respond 0) := runCommand_dataless_ok (action := beginRead addr) hrun
  have hclear' : (t.respond 0).clear = true := (State.clear_of_kept hread.kept).trans hclear
  obtain ⟨u, hrest, hresponses, hwire, hclosed, hmem, hkept⟩ :=
    ((hread.streaming hcfg hbegin hbad hpd).respond 0).runList_harvests k hcfg hclear'
  refine ⟨u, ?_, ?_, ?_, hclosed, fun a => by rw [hmem], State.kept_trans hread.kept hkept⟩
  · rw [runList_cons _ hexec hclear', hrest]
  · rw [hresponses, State.respond_responses, hread.responses, List.append_nil]
    rfl
  · rw [hwire, State.respond_wire, hread.wire_eq hcfg hbegin hbad hpd, map_range_succ _ k]
    simp only [List.append_assoc, List.cons_append, List.nil_append, Nat.add_zero]
    rfl

end Sys2Proof.Machine
end

section
/-! PROOFS. The page write and the erase (`20_memory.md` R72 to R74, R78; `41_protocol_engine.md` R144, R145): where the payload
of a page goes, what the write frame does to the part, and the commands and wire frames that send it. -/

namespace Sys2Proof.Machine

/-! ## Sizes -/

/-- A power of two that reaches 256 is a multiple of it. -/
theorem isPowerOfTwo_dvd {n : Nat} (h : isPowerOfTwo n = true) (hn : 256 ≤ n) : 256 ∣ n := by
  simp only [isPowerOfTwo, List.any_eq_true, List.mem_range, beq_iff_eq] at h
  obtain ⟨k, -, rfl⟩ := h
  have hk : 8 ≤ k := (Nat.pow_le_pow_iff_right (by decide : 1 < 2)).mp hn
  exact pow_dvd_pow 2 hk

theorem Config.wf_flashBytes_dvd {cfg : Config} (h : cfg.wf = true) (hsize : 256 ≤ cfg.flashBytes) :
    256 ∣ cfg.flashBytes := by
  simp only [Config.wf, Bool.and_eq_true] at h
  obtain ⟨⟨⟨⟨-, hflash⟩, -⟩, -⟩, -⟩ := h
  exact isPowerOfTwo_dvd hflash hsize

theorem Config.wf_eraseBlockBytes {cfg : Config} (h : cfg.wf = true) : 0 < cfg.eraseBlockBytes ∧ 256 ∣ cfg.eraseBlockBytes := by
  simp only [Config.wf, Bool.and_eq_true, decide_eq_true_eq] at h
  obtain ⟨⟨⟨-, hpower, hpage⟩, -⟩, -⟩ := h
  exact ⟨(isPowerOfTwo_bounds hpower).1, Nat.dvd_of_mod_eq_zero hpage⟩

/-! ## The bytes of a page -/

/-- The byte of the page that a payload byte goes to (`20_memory.md` R73). -/
theorem programAddr_mod {flashBytes : Nat} (h : 256 ∣ flashBytes) (addr i : Nat) :
    programAddr flashBytes addr i % 256 = (addr + i) % 256 := by
  rw [programAddr, Nat.mod_mod_of_dvd _ h]
  omega

/-- The bytes of one payload, at most 256, go to different addresses. -/
theorem programAddr_injective {flashBytes : Nat} (h : 256 ∣ flashBytes) (addr : Nat) {i j : Nat} (hi : i < 256) (hj : j < 256)
    (heq : programAddr flashBytes addr i = programAddr flashBytes addr j) : i = j := by
  have hplace := programAddr_mod h addr i
  rw [heq, programAddr_mod h addr j] at hplace
  omega

/-- `Program()` from payload byte `i` on: each target byte is ANDed with its payload byte, every other byte is as before. -/
theorem programFrom_read {flashBytes : Nat} (h : 256 ∣ flashBytes) (addr i : Nat) (data : List Byte) (m : Mem)
    (hlen : i + data.length ≤ 256) :
    (∀ k, k < data.length →
      Mem.read .flash (programFrom flashBytes addr i data m).1 (programAddr flashBytes addr (i + k)) =
        Mem.read .flash m (programAddr flashBytes addr (i + k)) &&& data.getD k 0) ∧
    (∀ a, (∀ k, k < data.length → a ≠ programAddr flashBytes addr (i + k)) →
      Mem.read .flash (programFrom flashBytes addr i data m).1 a = Mem.read .flash m a) := by
  induction data generalizing i m with
  | nil => exact ⟨fun k hk => absurd hk (Nat.not_lt_zero k), fun _ _ => rfl⟩
  | cons b rest ih =>
    rw [List.length_cons] at hlen
    obtain ⟨hinside, houtside⟩ := ih (i + 1) (Mem.write .flash m (programAddr flashBytes addr i)
      (Mem.read .flash m (programAddr flashBytes addr i) &&& b)) (by omega)
    have hshift : ∀ k, i + (k + 1) = i + 1 + k := fun k => by omega
    refine ⟨fun k hk => ?_, fun a ha => ?_⟩
    · rw [List.length_cons] at hk
      cases k with
      | zero =>
        simp only [Nat.add_zero]
        rw [programFrom, houtside, Mem.read_write_same, List.getD_cons_zero]
        intro k hk' heq
        have := programAddr_injective h addr (by omega) (by omega) heq
        omega
      | succ k =>
        rw [hshift, programFrom, hinside k (by omega), Mem.read_write_other, List.getD_cons_succ]
        intro heq
        have := programAddr_injective h addr (by omega) (by omega) heq
        omega
    · rw [programFrom, houtside, Mem.read_write_other]
      · exact ha 0 (Nat.succ_pos _)
      · intro k hk
        rw [← hshift]
        exact ha (k + 1) (Nat.succ_lt_succ hk)

/-- A page of erased bytes takes a payload without a breach of contract 2. -/
theorem not_meetsUnerased {cfg : Config} (hcfg : cfg.wf = true) (hsize : 256 ≤ cfg.flashBytes) {m : Mem} {addr : Nat}
    {data : List Byte} (hlen : data.length ≤ 256)
    (herased : ∀ k, k < data.length → Mem.read .flash m (programAddr cfg.flashBytes addr k) = 0xFF) :
    ¬ meetsUnerased cfg m addr data := by
  rintro ⟨k, hk, hbyte | ⟨j, hj, hsame, -⟩⟩
  · exact hbyte (herased k hk)
  · have := programAddr_injective (Config.wf_flashBytes_dvd hcfg hsize) addr (by omega) (by omega) hsame
    omega

/-! ## The write frame at the part -/

namespace FlashPart

variable {cfg : Config} {f : FlashPart}

/-- An awake part once a write frame is sent, before its `D`. -/
def inWrite (cfg : Config) (f : FlashPart) (a : Addr) (data : List Byte) : FlashPart :=
  { f with n := 4 + data.length, op := cfg.opWrite, addr := a, buf := data, ign := false, bad := false,
           cur := cursorAt cfg a.toNat }

theorem feed_write (hcfg : cfg.wf = true) (a : Addr) (data : List Byte) (hn : f.n = 0) (hbad : f.bad = false)
    (hpd : f.pd = false) : f.feed cfg (cfg.opWrite :: (wireAddr a ++ data)) = f.inWrite cfg a data := by
  have haddressed := feed_addressed cfg f cfg.opWrite a hn hbad hpd ((hasAddress_iff _ _).mpr (.inr (.inl rfl)))
  rw [← List.cons_append, feed_append, wireAddr, haddressed,
    feed_payload _ _ _ rfl rfl rfl (Config.wf_opWrite_ne_read hcfg) (Nat.le_refl 4)]
  rfl

/-- The `D` of a write frame with a payload programs, and does nothing else. -/
theorem deselect_inWrite (hcfg : cfg.wf = true) (a : Addr) {data : List Byte} (hdata : 1 ≤ data.length) :
    (f.inWrite cfg a data).deselect cfg = { (f.inWrite cfg a data).program cfg with n := 0 } := by
  have hrelease : cfg.opWrite ≠ WireOp.releasePd := (Config.wf_opWrite_ne hcfg (by decide)).symm
  have hlong : 5 ≤ 4 + data.length := by omega
  have h1 : 4 + data.length ≠ 1 := by omega
  have h4 : data ≠ [] := by
    rintro rfl
    simp at hdata
  have hcommit : (f.inWrite cfg a data).commit cfg = (f.inWrite cfg a data).program cfg := by
    simp [commit, inWrite, hlong, h1, h4]
  have hkeep : ((f.inWrite cfg a data).program cfg).release = (f.inWrite cfg a data).program cfg := by
    have hop : ((f.inWrite cfg a data).program cfg).op = cfg.opWrite := by
      unfold program
      dsimp only
      repeat' split
      all_goals rfl
    simp [release, hop, hrelease]
  have hheeded : (!(f.inWrite cfg a data).bad && decide (1 ≤ (f.inWrite cfg a data).n) && !(f.inWrite cfg a data).ign) = true := by
    simp [inWrite, (by omega : 1 ≤ 4 + data.length)]
  rw [deselect, if_pos hheeded, hcommit]
  dsimp only
  rw [hkeep]

/-- An awake part after a write frame with its latch set: the page is programmed and the latch clear. -/
def programmed (cfg : Config) (f : FlashPart) (a : Addr) (data : List Byte) : FlashPart :=
  { f.inWrite cfg a data with mem := (programFrom cfg.flashBytes a.toNat 0 data f.mem).1, wel := false, n := 0 }

/-- The part after a write frame that breaks no contract: with the latch set the page is programmed and the latch clear,
without it nothing has happened to the array. -/
theorem write_frame_programs (hcfg : cfg.wf = true) (a : Addr) {data : List Byte} (hdata : 1 ≤ data.length) (hn : f.n = 0)
    (hbad : f.bad = false) (hpd : f.pd = false) (hwel : f.wel = true)
    (hsafe : cfg.strict = false ∨ ¬ meetsUnerased cfg f.mem a.toNat data) :
    (f.feed cfg (cfg.opWrite :: (wireAddr a ++ data))).deselect cfg = f.programmed cfg a data := by
  have hclean : (cfg.strict && (programFrom cfg.flashBytes a.toNat 0 data f.mem).2) = false := by
    rcases hsafe with hstrict | herased
    · rw [hstrict, Bool.false_and]
    · have hmet : (programFrom cfg.flashBytes a.toNat 0 data f.mem).2 = false := by
        rw [Bool.eq_false_iff, Ne, programFrom_meets]
        simpa only [meetsUnerased, Nat.zero_add] using herased
      rw [hmet, Bool.and_false]
  rw [feed_write hcfg a data hn hbad hpd, deselect_inWrite hcfg a hdata]
  simp [program, programmed, inWrite, hwel, hclean]

theorem write_frame_unlatched (hcfg : cfg.wf = true) (a : Addr) {data : List Byte} (hdata : 1 ≤ data.length) (hn : f.n = 0)
    (hbad : f.bad = false) (hpd : f.pd = false) (hwel : f.wel = false) :
    (f.feed cfg (cfg.opWrite :: (wireAddr a ++ data))).deselect cfg = { f.inWrite cfg a data with n := 0 } := by
  rw [feed_write hcfg a data hn hbad hpd, deselect_inWrite hcfg a hdata]
  simp [program, inWrite, hwel]

/-- The erase frame of a part whose latch is clear. -/
theorem erase_frame_unlatched (a : Addr) (hn : f.n = 0) (hbad : f.bad = false) (hpd : f.pd = false) (hwel : f.wel = false) :
    (f.feed cfg (WireOp.erase :: wireAddr a)).deselect cfg =
      { f with op := WireOp.erase, addr := a, buf := [], ign := false, cur := cursorAt cfg a.toNat } := by
  have hdown : WireOp.erase ≠ WireOp.powerDown := by decide
  have hrelease : WireOp.erase ≠ WireOp.releasePd := by decide
  rw [wireAddr, feed_addressed cfg f WireOp.erase a hn hbad hpd ((hasAddress_iff _ _).mpr (.inr (.inr rfl)))]
  simp [deselect, commit, eraseBlock, release, hn, hbad, hwel, hdown, hrelease]

/-- A write frame that meets an unerased byte breaks contract 2 at its `D`, on an awake strict part whose latch is set. -/
theorem write_frame_breaks (hcfg : cfg.wf = true) (hstrict : cfg.strict = true) (a : Addr) {data : List Byte} (hn : f.n = 0)
    (hbad : f.bad = false) (hpd : f.pd = false) (hwel : f.wel = true) (hmeets : meetsUnerased cfg f.mem a.toNat data) :
    (f.feed cfg (cfg.opWrite :: (wireAddr a ++ data))).breaksErasure cfg := by
  rw [feed_write hcfg a data hn hbad hpd]
  refine ⟨hstrict, rfl, rfl, hwel, rfl, ?_, hmeets⟩
  obtain ⟨k, hk, -⟩ := hmeets
  show 5 ≤ 4 + data.length
  omega

end FlashPart

/-! ## WRITEPAGE -/

/-- Settles O30: WRITEPAGE is its two frames and the response 0. -/
theorem writepageSendsTwoFrames : Obligations.WritepageSendsTwoFrames := by
  intro addr data s _
  refine ⟨fun hbegin hsafe => ?_, fun hphase => ?_⟩
  · obtain ⟨m, t, hrun, enable, write⟩ := writePage_run addr data s hbegin hsafe
    refine ⟨m, t.respond 0, runCommand_dataless_ok (action := writePage addr data) hrun, enable, write.respond 0, ?_⟩
    rw [State.respond_we, write.we, State.kept_cfg enable.kept, weAfterClose_write]
  · exact runCommand_misuse (first := writePage addr data) (writePage_misuse addr data hphase)

/-- The part after the two frames of a page write, awake before them. -/
theorem FrameSent.programmed {a : Addr} {data : List Byte} {given given' : List Resp} {s m t : State}
    (enable : FrameSent WireOp.writeEnable [] given s m) (write : FrameSent s.cfg.opWrite (wireAddr a ++ data) given' m t)
    (hcfg : s.cfg.wf = true) (hdata : 1 ≤ data.length) (hn : s.flash.n = 0) (hbad : s.flash.bad = false)
    (hpd : s.flash.pd = false) (hsafe : s.cfg.strict = false ∨ ¬ meetsUnerased s.cfg s.flash.mem a.toNat data) :
    t.flash = s.flash.programmed s.cfg a data := by
  have hm := enable.flash
  rw [FlashPart.writeEnable_frame s.cfg s.flash hn hbad hpd] at hm
  have hwrite := write.flash
  rw [State.kept_cfg enable.kept, hm] at hwrite
  exact hwrite.trans (FlashPart.write_frame_programs hcfg a hdata hn hbad hpd rfl hsafe)

/-- Where WRITEPAGE completes on an awake part, the page is programmed, the latch clear and the bus closed. -/
theorem exec_writepage_programs {a : Addr} {data : List Byte} {s : State} (hcfg : s.cfg.wf = true)
    (hbegin : s.canBegin = true) (hbad : s.flash.bad = false) (hpd : s.flash.pd = false) (hdata : 1 ≤ data.length)
    (hsafe : s.cfg.strict = false ∨ ¬ meetsUnerased s.cfg s.flash.mem a.toNat data) :
    ∃ t, exec (.writepage a data) s = .next t ∧ t.flash = s.flash.programmed s.cfg a data ∧
      t.closed = true ∧ t.responses = s.responses ++ [0] ∧ s.kept t := by
  obtain ⟨-, -, -, hn, -⟩ := canBegin_parts hbegin
  obtain ⟨m, t, hrun, enable, write⟩ := writePage_run a data s hbegin (hsafe.imp_right .inr)
  refine ⟨t.respond 0, runCommand_dataless_ok (action := writePage a data) hrun,
    FrameSent.programmed (t := t) enable write hcfg hdata hn hbad hpd hsafe, ?_, ?_, State.kept_trans enable.kept write.kept⟩
  · simp [State.closed, write.cs, write.pstate, write.inflight]
  · rw [State.respond_responses, write.responses, enable.responses, List.append_nil, List.append_nil]

theorem State.kept_fault {s t : State} (h : s.kept t) : t.fault = s.fault := by
  obtain ⟨-, -, -, -, hfault, -⟩ := h
  exact hfault

/-- Settles O31: the payload of a page goes to 256 different addresses. -/
theorem writepageProgramsPage : Obligations.WritepageProgramsPage := by
  intro addr data s hcfg hsize hbegin hbad hpd hlen hsafe
  have hlen256 : data.length = 256 := hlen
  obtain ⟨t, hrun, hflash, hclosed, -, hkept⟩ := exec_writepage_programs (a := addr) (data := data) hcfg hbegin hbad hpd
    (by omega) (hsafe.imp_right fun herased => not_meetsUnerased hcfg hsize hlen256.le fun k hk => herased k (by omega))
  obtain ⟨hinside, houtside⟩ := programFrom_read (Config.wf_flashBytes_dvd hcfg hsize) addr.toNat 0 data s.flash.mem
    (by omega)
  simp only [Nat.zero_add, hlen256] at hinside houtside
  have hmem : t.flash.mem = (programFrom s.cfg.flashBytes addr.toNat 0 data s.flash.mem).1 := by rw [hflash]; rfl
  rw [← hmem] at hinside houtside
  exact ⟨t, hrun, State.kept_fault hkept, by rw [hflash]; rfl, hclosed, hinside, houtside⟩

end Sys2Proof.Machine
end

section
/-! PROOFS. Erase and write at the part, and what a part that enforces its contracts makes of them (`20_memory.md` R66, R72 to
R74, R78): the wire frames, the breach of contract 2, and the round trip. -/

namespace Sys2Proof.Machine

/-! ## The wire frames and the latch -/

section
variable {s : State} {a : Addr} (hn : s.flash.n = 0) (hbad : s.flash.bad = false) (hpd : s.flash.pd = false)
include hn hbad hpd

/-- The array after an erase frame: the block is blank where the latch was set. -/
theorem erase_frame_mem :
    ((s.flash.feed s.cfg (WireOp.erase :: wireAddr a)).deselect s.cfg).wel = false ∧
      ((s.flash.feed s.cfg (WireOp.erase :: wireAddr a)).deselect s.cfg).mem =
        if s.flash.wel = true then Mem.blank s.flash.mem (blockBase s.cfg a.toNat) s.cfg.eraseBlockBytes else s.flash.mem := by
  cases hwel : s.flash.wel with
  | true =>
    rw [FlashPart.erase_frame s.cfg s.flash a hn hbad hpd hwel]
    exact ⟨rfl, rfl⟩
  | false =>
    rw [FlashPart.erase_frame_unlatched a hn hbad hpd hwel]
    exact ⟨hwel, rfl⟩

/-- The array after a write frame that breaks no contract: the page is programmed where the latch was set. -/
theorem write_frame_mem {data : List Byte} (hcfg : s.cfg.wf = true) (hdata : 1 ≤ data.length)
    (hsafe : s.cfg.strict = false ∨ s.flash.wel = false ∨ ¬ meetsUnerased s.cfg s.flash.mem a.toNat data) :
    ((s.flash.feed s.cfg (s.cfg.opWrite :: (wireAddr a ++ data))).deselect s.cfg).wel = false ∧
      ((s.flash.feed s.cfg (s.cfg.opWrite :: (wireAddr a ++ data))).deselect s.cfg).mem =
        if s.flash.wel = true then (programFrom s.cfg.flashBytes a.toNat 0 data s.flash.mem).1 else s.flash.mem := by
  cases hwel : s.flash.wel with
  | true =>
    have hsafe' : s.cfg.strict = false ∨ ¬ meetsUnerased s.cfg s.flash.mem a.toNat data := by simpa [hwel] using hsafe
    rw [FlashPart.write_frame_programs hcfg a hdata hn hbad hpd hwel hsafe']
    exact ⟨rfl, rfl⟩
  | false =>
    rw [FlashPart.write_frame_unlatched hcfg a hdata hn hbad hpd hwel]
    exact ⟨hwel, rfl⟩

end

/-- The close of an OP_WRITE frame breaks no contract without the latch, or where no unerased byte is met. -/
theorem runFrame_write_safe {a : Addr} {data : List Byte} {s : State} (hbegin : s.canBegin = true)
    (hsafe : s.cfg.strict = false ∨ s.flash.wel = false ∨ ¬ meetsUnerased s.cfg s.flash.mem a.toNat data) :
    ∃ t, exec (.opWrite a data) s = .next t ∧ FrameSent s.cfg.opWrite (wireAddr a ++ data) [] s t := by
  obtain ⟨-, -, -, hn, hawake⟩ := canBegin_parts hbegin
  refine runFrame_write (canBegin_frame hbegin _) ?_
  rcases hsafe with hstrict | hwel | herased
  · exact FlashPart.write_frame_unbroken _ _ _ _ hn hawake (.inl hstrict)
  · exact FlashPart.deselect_bad_unlatched _ ((FlashPart.feed_wel _ _ _).trans hwel)
  · exact FlashPart.write_frame_unbroken _ _ _ _ hn hawake (.inr (.inr herased))

/-- Settles O48: the frames are sent whole, and the part commits them by its latch. -/
theorem wireEraseAndWriteNeedLatch : Obligations.WireEraseAndWriteNeedLatch := by
  intro addr data s hcfg hsize hbegin hbad hpd hdata hlen
  obtain ⟨-, -, -, hn, -⟩ := canBegin_parts hbegin
  refine ⟨?_, fun hsafe => ?_⟩
  · obtain ⟨t, hrun, hsent⟩ := runFrame_sent (canBegin_frame hbegin WireOp.erase)
      (closesSafely_other hcfg (by decide) (wireAddr addr))
    obtain ⟨hwel, hmem⟩ := erase_frame_mem (a := addr) hn hbad hpd
    rw [← hsent.flash] at hwel hmem
    refine ⟨t, hrun, State.kept_fault hsent.kept, hwel, fun a => ?_⟩
    rw [hmem]
    cases s.flash.wel with
    | true => simp [Mem.read_blank, blankByte]
    | false => simp
  · have hsafe' : s.cfg.strict = false ∨ s.flash.wel = false ∨ ¬ meetsUnerased s.cfg s.flash.mem addr.toNat data :=
      hsafe.imp_right (Or.imp_right fun herased => not_meetsUnerased hcfg hsize hlen herased)
    obtain ⟨t, hrun, hsent⟩ := runFrame_write_safe hbegin hsafe'
    obtain ⟨hwel, hmem⟩ := write_frame_mem hn hbad hpd hcfg hdata hsafe'
    rw [← hsent.flash] at hwel hmem
    obtain ⟨hinside, houtside⟩ := programFrom_read (Config.wf_flashBytes_dvd hcfg hsize) addr.toNat 0 data s.flash.mem
      (by omega)
    simp only [Nat.zero_add] at hinside houtside
    refine ⟨t, hrun, State.kept_fault hsent.kept, hwel, ?_⟩
    rw [hmem]
    cases s.flash.wel with
    | true => exact ⟨hinside, houtside⟩
    | false =>
      have hkeep : ∀ b : Byte, b = b &&& 0xFF := fun b => (BitVec.and_allOnes (x := b)).symm
      exact ⟨fun k _ => hkeep _, fun _ _ => rfl⟩

/-! ## The breach of contract 2 -/

/-- The `D` of a write frame that meets an unerased byte, on an awake strict part whose latch is set. -/
theorem FrameOpened.deselect_breaks {a : Addr} {data : List Byte} {s u : State}
    (hopen : FrameOpened s.cfg.opWrite (wireAddr a ++ data) [] s u) (hcfg : s.cfg.wf = true) (hstrict : s.cfg.strict = true)
    (hn : s.flash.n = 0) (hbad : s.flash.bad = false) (hpd : s.flash.pd = false) (hwel : s.flash.wel = true)
    (hmeets : meetsUnerased s.cfg s.flash.mem a.toNat data) :
    deselect u = .halt (.contract 2 s.cfg.opWrite) u.dropBus ∧ u.dropBus.flash.bad = true ∧
      u.dropBus.responses = s.responses := by
  have hbreaks : u.flash.breaksErasure u.cfg := by
    rw [hopen.flash, State.kept_cfg hopen.kept]
    exact FlashPart.write_frame_breaks hcfg hstrict a hn hbad hpd hwel hmeets
  refine ⟨?_, ?_, ?_⟩
  · rw [deselect_broken hopen.inflight hopen.cs hbreaks, State.kept_cfg hopen.kept]
  · rw [State.dropBus_flash, FlashPart.deselect_of_breaks hbreaks]
  · rw [State.dropBus_responses, hopen.responses, List.append_nil]

/-- `WritePage` onto a byte that is not erased, on an awake strict part. -/
theorem writePage_breaks {a : Addr} {data : List Byte} {s : State} (hcfg : s.cfg.wf = true) (hstrict : s.cfg.strict = true)
    (hbegin : s.canBegin = true) (hbad : s.flash.bad = false) (hmeets : meetsUnerased s.cfg s.flash.mem a.toNat data) :
    ∃ t, writePage a data s = .halt (.contract 2 s.cfg.opWrite) t ∧ t.flash.bad = true ∧ t.responses = s.responses := by
  obtain ⟨-, -, -, hn, hawake⟩ := canBegin_parts hbegin
  have hpd : s.flash.pd = false := by simpa [hstrict] using hawake
  obtain ⟨m, u, hrun, enable, -, hopen⟩ := writePage_opened a data s hbegin
  have hm := enable.flash
  rw [FlashPart.writeEnable_frame s.cfg s.flash hn hbad hpd] at hm
  have hsame : m.cfg = s.cfg := State.kept_cfg enable.kept
  rw [← hsame] at hopen hcfg hstrict
  obtain ⟨hdeselect, hbroken, hresponses⟩ := hopen.deselect_breaks hcfg hstrict (by rw [hm]; exact hn)
    (by rw [hm]; exact hbad) (by rw [hm]; exact hpd) (by rw [hm]) (by rw [hm, hsame]; exact hmeets)
  exact ⟨u.dropBus, by rw [hrun, hdeselect, hsame], hbroken, by rw [hresponses, enable.responses, List.append_nil]⟩

/-- Settles O33: in all three the `D` of the write frame breaks contract 2. -/
theorem strictPartFlagsUnerasedWrite : Obligations.StrictPartFlagsUnerasedWrite := by
  intro addr data s hcfg hstrict hbegin hbad hmeets
  obtain ⟨-, hphase, -, hn, hawake⟩ := canBegin_parts hbegin
  have hpd : s.flash.pd = false := by simpa [hstrict] using hawake
  obtain ⟨t, hrun, hbroken, hresponses⟩ := writePage_breaks hcfg hstrict hbegin hbad hmeets
  have hbody : andRespond0 (writePage addr data s) = .halt (.contract 2 s.cfg.opWrite) t := by
    rw [hrun, andRespond0, Res.bind_halt]
  refine ⟨⟨_, runCommand_halt (op := 0x1F) (body := fun s => andRespond0 (writePage addr data s)) hbody, rfl, hbroken,
    hresponses⟩, fun p hinited haddr => ?_, fun hwel => ?_⟩
  · have hpage : savePageAddr s.savePage p = addr := BitVec.eq_of_toNat_eq ((savePageAddr_toNat _ _).trans haddr.symm)
    rw [exec_writesavepage, translatingCommand_translated hphase (toSavePage_inited p hinited), hpage]
    exact ⟨_, runCommand_halt hbody, rfl, hbroken, hresponses⟩
  · obtain ⟨u, hrun, hopen⟩ := sendFrame_opened (wireAddr addr ++ data) (canBegin_frame hbegin s.cfg.opWrite)
    obtain ⟨hdeselect, hbroken, hresponses⟩ := hopen.deselect_breaks hcfg hstrict hn hbad hpd hwel hmeets
    exact ⟨_, runFrame_halt (hrun.trans hdeselect), rfl, hbroken, hresponses⟩

/-! ## The round trip -/

/-- A page that starts at a multiple of 256 lies in the erase block of its address, in order: it wraps neither in the page nor
at the top of the part. -/
theorem programAddr_aligned {cfg : Config} {addr : Nat} (hcfg : cfg.wf = true) (hsize : 256 ≤ cfg.flashBytes)
    (haddr : addr % 256 = 0) {k : Nat} (hk : k < 256) :
    programAddr cfg.flashBytes addr k = (addr + k) % cfg.flashBytes ∧
      blockBase cfg addr ≤ (addr + k) % cfg.flashBytes ∧
      (addr + k) % cfg.flashBytes < blockBase cfg addr + cfg.eraseBlockBytes := by
  obtain ⟨hpositive, hpages⟩ := Config.wf_eraseBlockBytes hcfg
  have hflash := Config.wf_flashBytes_dvd hcfg hsize
  have hoffset : (addr + k) % 256 = k := by omega
  have hwithin : addr % cfg.flashBytes < cfg.flashBytes := Nat.mod_lt _ (by omega)
  have hpage : addr % cfg.flashBytes % 256 = 0 := by rw [Nat.mod_mod_of_dvd _ hflash, haddr]
  have hblock : addr % cfg.flashBytes % cfg.eraseBlockBytes % 256 = 0 := by rw [Nat.mod_mod_of_dvd _ hpages, hpage]
  have hroom : addr % cfg.flashBytes % cfg.eraseBlockBytes < cfg.eraseBlockBytes := Nat.mod_lt _ hpositive
  have hsum : (addr + k) % cfg.flashBytes = addr % cfg.flashBytes + k := by
    rw [← Nat.mod_add_mod]
    exact Nat.mod_eq_of_lt (by omega)
  refine ⟨by rw [programAddr, hoffset, haddr, Nat.sub_zero], ?_, ?_⟩ <;> rw [blockBase, hsum] <;> omega

theorem canBegin_of_closed {t : State} (hclosed : t.closed = true) (hbus : t.cfg.busOk = true) (hn : t.flash.n = 0)
    (hpd : t.flash.pd = false) : t.canBegin = true := by
  simp only [State.closed, Bool.and_eq_true, Bool.not_eq_true', beq_iff_eq] at hclosed
  obtain ⟨⟨hcs, hphase⟩, hi⟩ := hclosed
  simp [State.canBegin, State.canTransfer, canOpen, hcs, hphase, hi, hbus, hn, hpd]

/-- ERASEBLOCK on an awake part: the block is blank and the part is ready for the next command. -/
theorem exec_eraseblock_blanks {a : Addr} {s : State} (hbegin : s.canBegin = true) (hbad : s.flash.bad = false)
    (hpd : s.flash.pd = false) :
    ∃ t, exec (.eraseblock a) s = .next t ∧ t.canBegin = true ∧ t.flash.bad = false ∧ t.flash.pd = false ∧
      t.flash.mem = Mem.blank s.flash.mem (blockBase s.cfg a.toNat) s.cfg.eraseBlockBytes ∧
      t.responses = s.responses ++ [0] ∧ s.kept t := by
  obtain ⟨htransfer, -, -, hn, -⟩ := canBegin_parts hbegin
  obtain ⟨m, t, hrun, enable, erase⟩ := eraseBlock_run a s hbegin
  have hkept : s.kept t := State.kept_trans enable.kept erase.kept
  have hm := enable.flash
  rw [FlashPart.writeEnable_frame s.cfg s.flash hn hbad hpd] at hm
  have hflash := erase.flash
  rw [FlashPart.erase_frame m.cfg m.flash a (by rw [hm]; exact hn) (by rw [hm]; exact hbad) (by rw [hm]; exact hpd)
    (by rw [hm]), hm, State.kept_cfg enable.kept] at hflash
  have hawake : t.flash.pd = false := by rw [hflash]; exact hpd
  refine ⟨t.respond 0, runCommand_dataless_ok (action := eraseBlock a) hrun, canBegin_of_closed ?_ ?_ ?_ hawake, ?_, hawake, ?_,
    ?_, hkept⟩
  · simp [State.closed, erase.cs, erase.pstate, erase.inflight]
  · exact (congrArg Config.busOk (State.kept_cfg hkept)).trans (canTransfer_parts htransfer).1
  · rw [State.respond_flash, hflash]
    exact hn
  · rw [State.respond_flash, hflash]
    exact hbad
  · rw [State.respond_flash, hflash]
  · rw [State.respond_responses, erase.responses, enable.responses, List.append_nil, List.append_nil]

/-- A block erased, and an aligned page written into it: the page holds the payload, and the part is ready to be read. -/
theorem erase_write_run {addr : Addr} {data : List Byte} {s : State} (hcfg : s.cfg.wf = true) (hsize : 256 ≤ s.cfg.flashBytes)
    (hclear : s.clear = true) (hbegin : s.canBegin = true) (hbad : s.flash.bad = false) (hpd : s.flash.pd = false)
    (haddr : addr.toNat % 256 = 0) (hlen : data.length = 256) :
    ∃ t u, exec (.eraseblock addr) s = .next t ∧ t.clear = true ∧ exec (.writepage addr data) t = .next u ∧ u.clear = true ∧
      u.canBegin = true ∧ u.flash.bad = false ∧ u.flash.pd = false ∧ u.cfg = s.cfg ∧ u.responses = s.responses ++ [0, 0] ∧
      ∀ k, k < 256 → Mem.read .flash u.flash.mem ((addr.toNat + k) % s.cfg.flashBytes) = data.getD k 0 := by
  obtain ⟨t, runErase, tbegin, tbad, tpd, tmem, tresponses, tkept⟩ := exec_eraseblock_blanks (a := addr) hbegin hbad hpd
  have tcfg : t.cfg = s.cfg := State.kept_cfg tkept
  have tclear : t.clear = true := (State.clear_of_kept tkept).trans hclear
  have herased : ∀ k, k < 256 → Mem.read .flash t.flash.mem (programAddr s.cfg.flashBytes addr.toNat k) = 0xFF := by
    intro k hk
    obtain ⟨hplace, hlow, hhigh⟩ := programAddr_aligned hcfg hsize haddr hk
    rw [tmem, Mem.read_blank, hplace, if_pos ⟨hlow, hhigh⟩]
    rfl
  obtain ⟨u, runWrite, uflash, uclosed, uresponses, ukept⟩ := exec_writepage_programs (a := addr) (data := data) (tcfg ▸ hcfg)
    tbegin tbad tpd (by omega) (.inr (not_meetsUnerased (tcfg ▸ hcfg) (tcfg ▸ hsize) hlen.le
      fun k hk => by rw [tcfg]; exact herased k (by omega)))
  obtain ⟨tready, -⟩ := canBegin_parts tbegin
  have ubus : u.cfg.busOk = true := (congrArg Config.busOk (State.kept_cfg ukept)).trans (canTransfer_parts tready).1
  have upd : u.flash.pd = false := by rw [uflash]; exact tpd
  refine ⟨t, u, runErase, tclear, runWrite, (State.clear_of_kept ukept).trans tclear,
    canBegin_of_closed uclosed ubus (by rw [uflash]; rfl) upd, by rw [uflash]; rfl, upd, (State.kept_cfg ukept).trans tcfg,
    by rw [uresponses, tresponses, List.append_assoc]; rfl, fun k hk => ?_⟩
  obtain ⟨hinside, -⟩ := programFrom_read (Config.wf_flashBytes_dvd hcfg hsize) addr.toNat 0 data t.flash.mem (by omega)
  have hbyte := hinside k (by omega)
  rw [Nat.zero_add, herased k hk] at hbyte
  have hmem : u.flash.mem = (programFrom s.cfg.flashBytes addr.toNat 0 data t.flash.mem).1 := by
    rw [uflash, ← tcfg]
    rfl
  obtain ⟨hplace, -⟩ := programAddr_aligned hcfg hsize haddr hk
  rw [hmem, ← hplace, hbyte]
  exact BitVec.allOnes_and

/-- Settles O32: the page holds the payload, and the read streams it. -/
theorem eraseWriteReadRoundTrip : Obligations.EraseWriteReadRoundTrip := by
  intro addr data s hcfg hsize hclear hbegin hbad hpd haddr hlen
  have hlen256 : data.length = 256 := hlen
  obtain ⟨t, u, runErase, tclear, runWrite, uclear, ubegin, ubad, upd, ucfg, uresponses, hread⟩ :=
    erase_write_run hcfg hsize hclear hbegin hbad hpd haddr hlen256
  obtain ⟨v, runRead, vresponses, -, vclosed, -⟩ := pipelinedReadLaw addr 255 u (ucfg ▸ hcfg) uclear ubegin upd ubad
  refine ⟨v, ?_, ?_, vclosed⟩
  · rw [List.append_assoc, List.cons_append, List.cons_append, List.cons_append, List.nil_append,
      runList_cons _ runErase tclear, runList_cons _ runWrite uclear]
    exact runRead
  · have hdata : data.map (fun b => b.setWidth 32) =
        (List.range 256).map (fun k => (Mem.read .flash u.flash.mem ((addr.toNat + k) % s.cfg.flashBytes)).setWidth 32) := by
      refine List.ext_getElem (by simp [hlen256]) fun k hk _ => ?_
      have hk' : k < data.length := by simpa using hk
      rw [List.getElem_map, List.getElem_map, List.getElem_range, hread k (by omega), List.getD_eq_getElem _ _ hk']
    rw [vresponses, uresponses, hdata, ucfg]
    simp

end Sys2Proof.Machine
end

section
/-! PROOFS. An instruction that stops at the first byte of a frame: at the opcode of an access to a strict part that sleeps
(`20_memory.md` R78, contract 3; `60_exceptions.md` R225), or at any byte on a bus whose transfers never complete
(`60_exceptions.md` R226). -/

namespace Sys2Proof.Machine

/-! ## The first byte of a frame -/

/-- `Select()` on a part whose count of bytes is 0. -/
theorem select_ready {s : State} (hn : s.flash.n = 0) :
    (select s).cs = true ∧ (select s).flash = s.flash ∧ (select s).wire = s.wire ++ s.opening ∧
      (select s).inflight = s.inflight ∧ (select s).responses = s.responses ∧ s.kept (select s) := by
  cases hcs : s.cs with
  | true => simp [select_of_asserted hcs, State.opening, hcs, State.kept_refl]
  | false =>
    rw [select_of_deasserted hcs]
    exact ⟨rfl, FlashPart.select_fresh _ hn, by simp [State.wire, State.opening, hcs, Event.seen], rfl, rfl, by simp [State.kept]⟩

/-- The state in which a byte that may name the command is on its way. -/
def State.onItsWay (s : State) (b : Byte) : State := (s.tracked b).issued b

/-- What sending it changes. -/
theorem State.onItsWay_spec (s : State) (b : Byte) :
    (s.onItsWay b).inflight = true ∧ (s.onItsWay b).cs = s.cs ∧ (s.onItsWay b).sdr = s.sdr ∧
      (s.onItsWay b).pstate = (if s.pstate = .selected then .cmdOpen else s.pstate) ∧
      (s.onItsWay b).flash = (if s.cs then (s.flash.exchange s.cfg b).2 else s.flash) ∧
      (s.onItsWay b).wire = s.wire ++ (if s.cs then s.flash.talk s.cfg [b] else [Event.unanswered b]) ∧
      (s.onItsWay b).responses = s.responses ∧ s.kept (s.onItsWay b) := by
  obtain ⟨hpstate, -, hcs, -, hflash, htrace, hresponses, -, hsdr, hcfg, hkept⟩ := s.tracked_spec b
  have hwire : (s.tracked b).wire = s.wire := by rw [State.wire, State.wire, htrace]
  refine ⟨State.issued_inflight _ _, (State.issued_cs _ _).trans hcs, (State.issued_sdr _ _).trans hsdr,
    (State.issued_pstate _ _).trans hpstate, ?_, ?_, (State.issued_responses _ _).trans hresponses,
    State.kept_trans hkept (by simp [State.kept, State.onItsWay])⟩
  · rw [State.onItsWay, State.issued_flash, hcs, hflash, hcfg]
  · cases hopen : s.cs with
    | true => rw [State.onItsWay, issued_wire b _ (hcs.trans hopen), hwire, hflash, hcfg, if_pos rfl]
    | false =>
      have hevent := answerOf_event b (s.tracked b)
      rw [hcs, hopen] at hevent
      rw [State.onItsWay, State.wire, State.issued_trace, List.map_append, ← State.wire, hwire]
      exact congrArg (s.wire ++ [·]) hevent

/-- The opcode byte of an access to a strict part that sleeps stops `XferTracked` (`20_memory.md` R78). -/
theorem xferTracked_contract {b : Byte} {s : State} (hi : s.inflight = false) (hcs : s.cs = true) (hn : s.flash.n = 0)
    (hstrict : s.cfg.strict = true) (hpd : s.flash.pd = true) (hbad : s.flash.bad = false)
    (haccess : hasAddress s.cfg b = true) :
    xferTracked b s = .halt (.contract 3 b) (s.onItsWay b) ∧ (s.onItsWay b).flash.bad = true := by
  obtain ⟨-, -, -, -, hflash, -⟩ := s.onItsWay_spec b
  obtain ⟨-, -, -, -, hsame, -, -, hinflight, -⟩ := s.tracked_spec b
  rw [if_pos hcs, FlashPart.exchange_opcode hn hbad] at hflash
  have hbroken : (s.onItsWay b).flash.bad = true := by simp [hflash, FlashPart.takeOpcode, hstrict, hpd, haccess]
  have hop : (s.onItsWay b).flash.op = b := by rw [hflash]; rfl
  refine ⟨?_, hbroken⟩
  rw [xferTracked_eq, xfer, issue_eq, ← State.onItsWay, hinflight, hi, hsame, hbad, hbroken, hop]
  rfl

/-- On a bus whose transfers never complete a byte that breaks no contract is waited for without end. -/
theorem xferTracked_hang {b : Byte} {s : State} (hbus : s.cfg.busOk = false) (hi : s.inflight = false)
    (hsafe : s.cfg.strict = false ∨ s.flash.pd = false ∨ s.flash.bad = true ∨ s.cs = false ∨ 1 ≤ s.flash.n ∨
      hasAddress s.cfg b = false) : xferTracked b s = .halt .hang (s.onItsWay b) := by
  obtain ⟨-, -, hcs, -, hflash, -, -, hinflight, -, hcfg, -⟩ := s.tracked_spec b
  have hkeeps : (s.tracked b).keepsContract b := State.keepsContract_of (by rw [hcfg, hflash, hcs]; exact hsafe)
  rw [xferTracked_eq, xfer, issue_kept (hinflight.trans hi) hkeeps, Res.bind_ok, wait_eq]
  simp [hcfg, hbus, State.onItsWay]

/-! ## The instructions that open a frame -/

theorem runCommand_dataless_halt {op : Byte} {action : State → Res Unit} {s t : State} {why : Stop}
    (h : action s = .halt why t) :
    runCommand op (fun s => andRespond0 (action s)) s = .next (t.raise (.command op) s.pstate why) :=
  runCommand_halt (by rw [h, andRespond0, Res.bind_halt])

section
variable {op : Byte} {s t : State} {why : Stop} (hphase : canOpen s.pstate = true)
include hphase

section
variable (hhalt : xferTracked op (select s) = .halt why t)
include hhalt

theorem sendFrame_halt (rest : List Byte) : sendFrame op rest s = .halt why t := by
  rw [sendFrame, require_of hphase, Res.bind_ok, hhalt, Res.bind_halt]

theorem writeCmd_halt : writeCmd op s = .halt why t := sendFrame_halt hphase hhalt []

theorem seek_halt (a : Addr) : seek op a s = .halt why t := by
  rw [seek, require_of hphase, Res.bind_ok, hhalt, Res.bind_halt]

end

theorem beginRead_halt (hhalt : xferTracked WireOp.read (select s) = .halt why t) (a : Addr) : beginRead a s = .halt why t := by
  rw [beginRead, seek_halt hphase hhalt, Res.bind_halt]

theorem drawBitmap_halt (hhalt : xferTracked WireOp.read (select s) = .halt why t) (hinited : s.inited = true) (x y : Half)
    (addr : Addr) (frame mode : Byte) : drawBitmap x y addr frame mode s = .halt why t := by
  rw [drawBitmap, readHeader, seekData, require_of hphase, Res.bind_ok, toDataAddress_inited _ hinited, Res.bind_ok,
    beginRead_halt hphase hhalt]
  rfl

end

/-- An instruction whose first frame stops at its opcode byte stops there, and that is what it records. -/
theorem exec_opening_halt (i : Instr) {op : Byte} {s t : State} {why : Stop} (hfirst : firstOpcode s.cfg i = some op)
    (hphase : canOpen s.pstate = true) (htranslated : translates i = none ∨ s.inited = true)
    (hhalt : xferTracked op (select s) = .halt why t) : ∃ given, exec i s = .next (t.raise given s.pstate why) := by
  have hinited : ∀ r, translates i = some r → s.inited = true := fun r hr => by simpa [hr] using htranslated
  have hframe : ∀ rest, runFrame op rest s = .next (t.raise (.frame op) s.pstate why) :=
    fun rest => runFrame_halt (sendFrame_halt hphase hhalt rest)
  have hcommand : ∀ opcode, runCommand opcode (fun s => andRespond0 (writeCmd op s)) s =
      .next (t.raise (.command opcode) s.pstate why) := fun _ => runCommand_dataless_halt (writeCmd_halt hphase hhalt)
  cases i with
  | writecmd opcode => cases hfirst; exact ⟨_, hcommand _⟩
  | writeenable => cases hfirst; exact ⟨_, hcommand _⟩
  | wake => cases hfirst; exact ⟨_, hcommand _⟩
  | sleep => cases hfirst; exact ⟨_, hcommand _⟩
  | seek opcode a =>
    cases hfirst
    exact ⟨_, runCommand_dataless_halt (action := seek op a) (seek_halt hphase hhalt a)⟩
  | beginread a =>
    cases hfirst
    exact ⟨_, runCommand_dataless_halt (action := beginRead a) (beginRead_halt hphase hhalt a)⟩
  | eraseblock a =>
    cases hfirst
    exact ⟨_, runCommand_dataless_halt (action := eraseBlock a) (by rw [eraseBlock, writeCmd_halt hphase hhalt, Res.bind_halt])⟩
  | writepage a data =>
    cases hfirst
    exact ⟨_, runCommand_dataless_halt (action := writePage a data)
      (by rw [writePage, writeCmd_halt hphase hhalt, Res.bind_halt])⟩
  | seekdata o =>
    cases hfirst
    rw [exec_seekdata, translatingCommand_translated hphase (toDataAddress_inited o (hinited _ rfl))]
    exact ⟨_, runCommand_dataless_halt (beginRead_halt hphase hhalt _)⟩
  | seeksave o =>
    cases hfirst
    rw [exec_seeksave, translatingCommand_translated hphase (toSaveAddress_inited o (hinited _ rfl))]
    exact ⟨_, runCommand_dataless_halt (beginRead_halt hphase hhalt _)⟩
  | seekdataarray index size extra =>
    cases hfirst
    rw [exec_seekdataarray, translatingCommand_translated hphase (toDataAddress_inited _ (hinited _ rfl))]
    exact ⟨_, runCommand_dataless_halt (beginRead_halt hphase hhalt _)⟩
  | erasesaveblock p =>
    cases hfirst
    rw [exec_erasesaveblock, translatingCommand_translated hphase (toSavePage_inited p (hinited _ rfl))]
    exact ⟨_, runCommand_dataless_halt (by rw [eraseBlock, writeCmd_halt hphase hhalt, Res.bind_halt])⟩
  | writesavepage p data =>
    cases hfirst
    rw [exec_writesavepage, translatingCommand_translated hphase (toSavePage_inited p (hinited _ rfl))]
    exact ⟨_, runCommand_dataless_halt (by rw [writePage, writeCmd_halt hphase hhalt, Res.bind_halt])⟩
  | drawbitmap x y addr frame mode =>
    cases hfirst
    refine ⟨.command 0x30, ?_⟩
    rw [exec, execDrawbitmap]
    refine runCommand_halt ?_
    rw [require_of hphase, Res.bind_ok, if_pos (hinited _ rfl), drawBitmap_halt hphase hhalt (hinited _ rfl)]
    rfl
  | opReleasePd => cases hfirst; exact ⟨_, hframe _⟩
  | opPowerDown => cases hfirst; exact ⟨_, hframe _⟩
  | opWriteEnable => cases hfirst; exact ⟨_, hframe _⟩
  | opRead a dummies => cases hfirst; exact ⟨_, hframe _⟩
  | opWrite a data => cases hfirst; exact ⟨_, hframe _⟩
  | opErase a => cases hfirst; exact ⟨_, hframe _⟩
  | opJedecId dummies => cases hfirst; exact ⟨_, hframe _⟩
  | opReadStatus1 dummies => cases hfirst; exact ⟨_, hframe _⟩
  | opReadStatus2 dummies => cases hfirst; exact ⟨_, hframe _⟩
  | _ => cases hfirst

/-- An erase or a page write whose second frame stops at its opcode byte. -/
theorem exec_second_halt (i : Instr) {op : Byte} {s m t : State} {why : Stop} (hsecond : secondOpcode s.cfg i = some op)
    (hphase : canOpen s.pstate = true) (htranslated : translates i = none ∨ s.inited = true)
    (henable : writeCmd WireOp.writeEnable s = .ok () m) (hm : canOpen m.pstate = true) (hcfg : m.cfg = s.cfg)
    (hhalt : xferTracked op (select m) = .halt why t) : ∃ given, exec i s = .next (t.raise given s.pstate why) := by
  have hinited : ∀ r, translates i = some r → s.inited = true := fun r hr => by simpa [hr] using htranslated
  have herase : op = WireOp.erase → ∀ a, eraseBlock a s = .halt why t := by
    rintro rfl a
    rw [eraseBlock, henable, Res.bind_ok, seek_halt hm hhalt, Res.bind_halt]
  have hwrite : op = s.cfg.opWrite → ∀ a data, writePage a data s = .halt why t := by
    rintro rfl a data
    rw [writePage, henable, Res.bind_ok, hcfg, seek_halt hm hhalt, Res.bind_halt]
  cases i with
  | eraseblock a =>
    cases hsecond
    exact ⟨_, runCommand_dataless_halt (action := eraseBlock a) (herase rfl a)⟩
  | writepage a data =>
    cases hsecond
    exact ⟨_, runCommand_dataless_halt (action := writePage a data) (hwrite rfl a data)⟩
  | erasesaveblock p =>
    cases hsecond
    rw [exec_erasesaveblock, translatingCommand_translated hphase (toSavePage_inited p (hinited _ rfl))]
    exact ⟨_, runCommand_dataless_halt (herase rfl _)⟩
  | writesavepage p data =>
    cases hsecond
    rw [exec_writesavepage, translatingCommand_translated hphase (toSavePage_inited p (hinited _ rfl))]
    exact ⟨_, runCommand_dataless_halt (hwrite rfl _ data)⟩
  | _ => cases hsecond

/-! ## The breach of contract 3 -/

theorem State.kept_fb {s t : State} (h : s.kept t) : t.fb = s.fb := by
  obtain ⟨-, -, -, -, -, -, -, hfb, -⟩ := h
  exact hfb

/-- The first byte of a frame that is opened on a strict part that sleeps, where it is the opcode of an access. -/
theorem opening_contract {op : Byte} {s : State} (hi : s.inflight = false) (hn : s.flash.n = 0) (hstrict : s.cfg.strict = true)
    (hpd : s.flash.pd = true) (hbad : s.flash.bad = false) (haccess : hasAddress s.cfg op = true) :
    ∃ t, xferTracked op (select s) = .halt (.contract 3 op) t ∧ t.flash.bad = true ∧ t.responses = s.responses ∧ t.fb = s.fb ∧
      t.wire = s.wire ++ s.opening ++ [Event.unanswered op] := by
  obtain ⟨hcs, hflash, hwire, hinflight, hresponses, hkept⟩ := select_ready hn
  have hcfg : (select s).cfg = s.cfg := State.kept_cfg hkept
  obtain ⟨-, -, -, -, -, twire, tresponses, tkept⟩ := (select s).onItsWay_spec op
  obtain ⟨hrun, hbroken⟩ := xferTracked_contract (b := op) (s := select s) (hinflight.trans hi) hcs (by rw [hflash]; exact hn)
    (by rw [hcfg]; exact hstrict) (by rw [hflash]; exact hpd) (by rw [hflash]; exact hbad) (by rw [hcfg]; exact haccess)
  refine ⟨_, hrun, hbroken, tresponses.trans hresponses, State.kept_fb (State.kept_trans hkept tkept), ?_⟩
  rw [twire, if_pos hcs, hflash, hwire, FlashPart.talk_short _ (by simp [hn])]
  rfl

/-- Settles O34: the byte on its way breaks contract 3, as the first byte of the first frame or of the second one. -/
theorem strictPartFlagsSleepingAccess : Obligations.StrictPartFlagsSleepingAccess := by
  intro s hcfg hstrict hpd hbad hn htransfer
  obtain ⟨hbus, hi⟩ := canTransfer_parts htransfer
  refine ⟨fun b hb hcs hreading => ?_, fun i op hop hphase hcs htranslated => ⟨fun hfirst => ?_, fun hsecond => ?_⟩⟩
  · obtain ⟨-, -, -, -, -, twire, tresponses, tkept⟩ := s.onItsWay_spec b
    obtain ⟨hrun, hbroken⟩ := xferTracked_contract hi hcs hn hstrict hpd hbad ((hasAddress_iff _ _).mpr hb)
    have hexec := (exec_transfer hreading).trans
      (runCommand_halt (why := .contract 3 b) (t := s.onItsWay b) (by rw [hrun, Res.bind_halt]))
    have hfb := State.kept_fb tkept
    refine ⟨_, hexec, rfl, hbroken, tresponses, hfb, twire.trans ?_⟩
    rw [if_pos hcs, FlashPart.talk_short _ (by simp [hn])]
    rfl
  · obtain ⟨t, hhalt, hspec⟩ := opening_contract hi hn hstrict hpd hbad ((hasAddress_iff _ _).mpr hop)
    obtain ⟨given, hrun⟩ := exec_opening_halt i hfirst hphase htranslated hhalt
    exact ⟨_, hrun, rfl, hspec⟩
  · have hlatch : hasAddress s.cfg WireOp.writeEnable = false := hasAddress_other hcfg (by decide) (by decide) (by decide)
    have hbegin : s.canBeginFrame WireOp.writeEnable = true := by
      simp [State.canBeginFrame, htransfer, hphase, hcs, hn, hlatch]
    obtain ⟨m, henable, hsent⟩ := writeCmd_run WireOp.writeEnable s hbegin
    have hm : m.cfg = s.cfg := State.kept_cfg hsent.kept
    obtain ⟨htalk, -, -, -, hasleep, hunbroken⟩ := sleepingPartIgnoresFrames s.cfg s.flash WireOp.writeEnable [] hpd hbad hn
      (by decide) (.inr hlatch)
    obtain ⟨t, hhalt, tbad, tresponses, tfb, twire⟩ := opening_contract (op := op) (s := m) hsent.inflight
      (by rw [hsent.flash]; rfl) (by rw [hm]; exact hstrict) (by rw [hsent.flash]; exact hasleep)
      (by rw [hsent.flash]; exact hunbroken) (by rw [hm]; exact (hasAddress_iff _ _).mpr hop)
    obtain ⟨given, hrun⟩ := exec_second_halt i hsecond hphase htranslated henable (by rw [hsent.pstate]; rfl) hm hhalt
    refine ⟨_, hrun, rfl, tbad, ?_, tfb.trans (State.kept_fb hsent.kept), twire.trans ?_⟩
    · exact tresponses.trans (hsent.responses.trans (List.append_nil _))
    · rw [hsent.wire, htalk]
      simp [State.opening, hsent.cs, Event.unanswered]

/-! ## The broken bus -/

section
variable {s : State} (hphase : s.pstate = .reading) (hi : s.inflight = true) (hbus : s.cfg.busOk = false)
include hphase hi hbus

theorem readPending_hang : readPending s = .halt .hang s := by
  rw [readPending, require_of (by simp [hphase]), Res.bind_ok, wait_eq, if_pos hi, if_neg (by simp [hbus]), Res.bind_halt]

theorem readLast_hang : readLast s = .halt .hang s := by
  rw [readLast, require_of (by simp [hphase]), Res.bind_ok, wait_eq, if_pos hi, if_neg (by simp [hbus]), Res.bind_halt]

theorem readLast16_hang : readLast16 s = .halt .hang s := by
  rw [readLast16, readPending_hang hphase hi hbus, Res.bind_halt]

/-- Every harvesting command starts with a harvest. -/
theorem exec_harvest_hang (i : Instr) (hharvest : harvests i = true) : exec i s = .next { s with stuck := true } := by
  have hpending := readPending_hang hphase hi hbus
  have hcommand : ∀ {α : Type} {op : Byte} {first : State → Res α} {next : α → State → Res Resp}, first s = .halt .hang s →
      runCommand op (fun s => (first s).bind next) s = .next { s with stuck := true } :=
    fun hfirst => runCommand_halt (why := .hang) (by rw [hfirst, Res.bind_halt])
  cases i with
  | readpending => exact hcommand hpending
  | readpending16 => exact hcommand hpending
  | readpending24 => exact hcommand hpending
  | readpending32 => exact hcommand hpending
  | readlast => exact hcommand (readLast_hang hphase hi hbus)
  | readlast16 => exact hcommand (readLast16_hang hphase hi hbus)
  | readlast24 => exact hcommand hpending
  | readlast32 => exact hcommand hpending
  | _ => cases hharvest

end

/-- A command that never ends is answered until HOST resets. -/
theorem step_stuck {s : State} (hreset : ∀ rest : List HostMove, s.host ≠ .reset :: rest) (hstuck : s.stuck = true) :
    step s = .fault .busHang :=
  step_stopped hreset (by rw [State.stopped, if_pos hstuck])

theorem State.kept_host {s t : State} (h : s.kept t) : t.host = s.host := by
  obtain ⟨-, -, -, -, -, -, -, -, -, -, hhost⟩ := h
  exact hhost

/-- Settles O44: the byte is on its way for ever, and a harvest waits for ever for the one that was. -/
theorem brokenBusHangsCommand : Obligations.BrokenBusHangsCommand := by
  intro s hbus hreset
  refine ⟨fun i op hfirst hi hphase hcs hn hsafe htranslated => ?_, fun b hi hreading hsafe => ?_,
    fun i hharvest hphase hi => ⟨exec_harvest_hang hphase hi hbus i hharvest, step_stuck hreset rfl⟩⟩
  · obtain ⟨hopen, hflash, hwire, hinflight, hresponses, hkept⟩ := select_ready hn
    have hcfg : (select s).cfg = s.cfg := State.kept_cfg hkept
    obtain ⟨tinflight, -, -, -, -, twire, tresponses, tkept⟩ := (select s).onItsWay_spec op
    have hhalt : xferTracked op (select s) = .halt .hang ((select s).onItsWay op) := by
      refine xferTracked_hang (by rw [hcfg]; exact hbus) (hinflight.trans hi) ?_
      rw [hcfg, hflash]
      exact hsafe.imp_right (Or.imp_right (Or.imp_right fun h => .inr (.inr h)))
    obtain ⟨given, hrun⟩ := exec_opening_halt i hfirst hphase htranslated hhalt
    have hsame := State.kept_trans hkept tkept
    have hfb := State.kept_fb hsame
    refine ⟨_, hrun, rfl, tinflight, tresponses.trans hresponses, fun a => congrArg (Mem.read .fb · a) hfb,
      twire.trans ?_, step_stuck (fun rest h => hreset rest ((State.kept_host hsame).symm.trans h)) rfl⟩
    rw [if_pos hopen, hflash, hwire, FlashPart.talk_short _ (by simp [hn])]
    rfl
  · obtain ⟨tinflight, tcs, tsdr, tpstate, -, twire, tresponses, tkept⟩ := s.onItsWay_spec b
    have hrun := (exec_transfer hreading).trans
      (runCommand_halt (by rw [xferTracked_hang hbus hi hsafe, Res.bind_halt]))
    have hfb := State.kept_fb tkept
    exact ⟨_, hrun, rfl, tinflight, tresponses, tcs, tpstate, tsdr, fun a => congrArg (Mem.read .fb · a) hfb,
      twire, step_stuck (fun rest h => hreset rest ((State.kept_host tkept).symm.trans h)) rfl⟩

end Sys2Proof.Machine
end

section
/-! PROOFS. A command equals its expansion (`30_encoding.md` R106): the primitives do not look at the history of responses, so a
sequence of instructions that completes is the run of their bodies one after another. -/

namespace Sys2Proof.Machine

/-! ## The history of responses apart -/

/-- The state without its history of responses. -/
def State.mute (s : State) : State := { s with responses := [] }

def Res.mute {α : Type} : Res α → Res α
  | .ok a s => .ok a s.mute
  | .halt why s => .halt why s.mute

/-- An operation that does not look at the history of responses. -/
def Muted {α : Type} (f : State → Res α) : Prop := ∀ s, f s.mute = (f s).mute

@[simp] theorem State.mute_cs (s : State) : s.mute.cs = s.cs := rfl
@[simp] theorem State.mute_pstate (s : State) : s.mute.pstate = s.pstate := rfl
@[simp] theorem State.mute_flash (s : State) : s.mute.flash = s.flash := rfl
@[simp] theorem State.mute_cfg (s : State) : s.mute.cfg = s.cfg := rfl

theorem mute_eq_iff {t u : State} : { t with responses := u.responses } = u ↔ t.mute = u.mute := by
  constructor
  · intro h
    rw [← h]
    rfl
  · intro h
    have hback := congrArg (fun s : State => { s with responses := u.responses }) h
    exact hback

theorem Muted.bind {α β : Type} {f : State → Res α} {g : α → State → Res β} (hf : Muted f) (hg : ∀ a, Muted (g a)) :
    Muted fun s => (f s).bind g := by
  intro s
  simp only [hf s]
  cases f s with
  | ok a t => exact hg a t
  | halt why t => rfl

theorem Muted.pure {α : Type} (a : α) : Muted (Res.ok a) := fun _ => rfl

theorem require_muted {p : State → Bool} (h : ∀ s, p s.mute = p s) : Muted fun s => require (p s) s := by
  intro s
  simp only [require, h s]
  split <;> rfl

theorem select_muted (s : State) : select s.mute = (select s).mute := by
  cases hcs : s.cs with
  | true => rw [select_of_asserted hcs, select_of_asserted (s := s.mute) hcs]
  | false =>
    rw [select_of_deasserted hcs, select_of_deasserted (s := s.mute) hcs]
    rfl

theorem answerOf_muted (b : Byte) (s : State) :
    answerOf b s.mute = ((answerOf b s).1, (answerOf b s).2.1, (answerOf b s).2.2.mute) := by
  cases hcs : s.cs with
  | false =>
    simp only [answerOf, State.mute_cs, hcs]
    rfl
  | true =>
    simp only [answerOf, State.mute_cs, hcs, if_true, State.mute_cfg, State.mute_flash]
    obtain ⟨r, f⟩ := s.flash.exchange s.cfg b
    cases r <;> rfl

theorem issued_muted (b : Byte) (s : State) : s.mute.issued b = (s.issued b).mute := by
  rw [State.issued, answerOf_muted]
  rfl

theorem ite_muted {α : Type} {p q : Prop} [Decidable p] [Decidable q] {r r' : Res α} {t t' : Res α} (hpq : p ↔ q)
    (hr : r = r'.mute) (ht : t = t'.mute) : (if p then r else t) = (if q then r' else t').mute := by
  by_cases h : q
  · rw [if_pos h, if_pos (hpq.mpr h), hr]
  · rw [if_neg h, if_neg (mt hpq.mp h), ht]

theorem issue_muted (b : Byte) : Muted (issue b) := by
  intro s
  rw [issue_eq, issue_eq, issued_muted]
  exact ite_muted Iff.rfl rfl (ite_muted Iff.rfl rfl rfl)

theorem wait_muted : Muted wait := by
  intro s
  rw [wait_eq, wait_eq]
  exact ite_muted Iff.rfl (ite_muted Iff.rfl rfl rfl) rfl

theorem xfer_muted (b : Byte) : Muted (xfer b) :=
  (issue_muted b).bind fun _ => wait_muted.bind fun _ _ => rfl

theorem xferTracked_muted (b : Byte) : Muted (xferTracked b) := by
  intro s
  have htracked : s.mute.tracked b = (s.tracked b).mute := by
    by_cases hp : s.pstate = .selected
    · rw [State.tracked, State.tracked, if_pos hp, if_pos (show s.mute.pstate = .selected from hp)]
      rfl
    · rw [State.tracked, State.tracked, if_neg hp, if_neg (show ¬ s.mute.pstate = .selected from hp)]
  rw [xferTracked_eq, xferTracked_eq, htracked, xfer_muted]

theorem deselect_muted : Muted deselect := by
  intro s
  rw [deselect_eq, deselect_eq]
  exact ite_muted Iff.rfl rfl (ite_muted Iff.rfl (ite_muted Iff.rfl rfl rfl) rfl)

theorem sendAll_muted (bytes : List Byte) : Muted (sendAll bytes) := by
  induction bytes with
  | nil => exact Muted.pure ()
  | cons b rest ih => exact (xfer_muted b).bind fun _ => ih

theorem opening_muted (op : Byte) : Muted fun s => xferTracked op (select s) := fun s => by
  simp only [select_muted, xferTracked_muted op (select s)]

theorem sendFrame_muted (op : Byte) (rest : List Byte) : Muted (sendFrame op rest) :=
  (require_muted fun _ => rfl).bind fun _ => (opening_muted op).bind fun _ => (sendAll_muted rest).bind fun _ => deselect_muted

theorem writeCmd_muted (op : Byte) : Muted (writeCmd op) := sendFrame_muted op []

theorem seek_muted (op : Byte) (a : Addr) : Muted (seek op a) :=
  (require_muted fun _ => rfl).bind fun _ => (opening_muted op).bind fun _ => sendAll_muted _

theorem beginRead_muted (a : Addr) : Muted (beginRead a) :=
  (seek_muted _ a).bind fun _ => (issue_muted _).bind fun _ _ => rfl

theorem eraseBlock_muted (a : Addr) : Muted (eraseBlock a) :=
  (writeCmd_muted _).bind fun _ => (seek_muted _ a).bind fun _ => deselect_muted

theorem writePage_muted (a : Addr) (data : List Byte) : Muted (writePage a data) :=
  (writeCmd_muted _).bind fun _ s => ((seek_muted s.cfg.opWrite a).bind fun _ => (sendAll_muted data).bind fun _ =>
    deselect_muted) s

theorem readPending_muted : Muted readPending :=
  (require_muted fun _ => rfl).bind fun _ => wait_muted.bind fun _ s =>
    ((issue_muted dummyByte).bind fun _ => Muted.pure s.sdr) s

theorem readLast_muted : Muted readLast :=
  (require_muted fun _ => rfl).bind fun _ => wait_muted.bind fun _ s => (deselect_muted.bind fun _ => Muted.pure s.sdr) s

theorem seekData_muted (o : Addr) : Muted (seekData o) :=
  (require_muted fun _ => rfl).bind fun _ => Muted.bind (fun _ => ite_muted Iff.rfl rfl rfl) fun a => beginRead_muted a

/-! ## From one state to another, responses apart -/

/-- The operation runs from `s` to `u`, the history of responses apart. -/
def Reaches {α : Type} (f : State → Res α) (s u : State) : Prop := ∃ a, f s.mute = .ok a u.mute

theorem Reaches.bind {α β : Type} {f : State → Res α} {g : α → State → Res β} {s t u : State} (h : Reaches f s t)
    (hg : ∀ a, Reaches (g a) t u) : Reaches (fun s => (f s).bind g) s u := by
  obtain ⟨a, hrun⟩ := h
  obtain ⟨b, hrest⟩ := hg a
  exact ⟨b, (congrArg (Res.bind · g) hrun).trans hrest⟩

theorem Reaches.pure {α : Type} (a : α) (s : State) : Reaches (Res.ok a) s s := ⟨a, rfl⟩

theorem Reaches.of_run {α : Type} {f : State → Res α} {a : α} {s t u : State} (hf : Muted f) (h : f s = .ok a t)
    (hmute : t.mute = u.mute) : Reaches f s u := ⟨a, by rw [hf, h, Res.mute, hmute]⟩

/-- An operation that reaches `u` ends in a state equal to `u`, the history of responses apart. -/
theorem Reaches.run {α : Type} {f : State → Res α} {s u : State} (h : Reaches f s u) (hf : Muted f) :
    ∃ a t, f s = .ok a t ∧ t.mute = u.mute := by
  obtain ⟨a, hrun⟩ := h
  rw [hf] at hrun
  cases hcase : f s with
  | ok b t =>
    rw [hcase, Res.mute, Res.ok.injEq] at hrun
    exact ⟨b, t, rfl, hrun.2⟩
  | halt why t =>
    rw [hcase] at hrun
    cases hrun

theorem reaches_require {p : State → Bool} {s : State} (h : p s.mute = true) : Reaches (fun s => require (p s) s) s s :=
  ⟨(), require_of h s.mute⟩

/-- The command whose body reaches `u`. -/
theorem Reaches.command {op : Byte} {body : State → Res Resp} {s u : State} (h : Reaches body s u) (hbody : Muted body) :
    ∃ t, runCommand op body s = .next t ∧ { t with responses := u.responses } = u := by
  obtain ⟨v, t, hrun, hmute⟩ := h.run hbody
  exact ⟨t.respond v, runCommand_ok hrun, mute_eq_iff.mpr hmute⟩

theorem Reaches.dataless {op : Byte} {action : State → Res Unit} {s u : State} (h : Reaches action s u) (hf : Muted action) :
    ∃ t, runCommand op (fun s => andRespond0 (action s)) s = .next t ∧ { t with responses := u.responses } = u :=
  Reaches.command (h.bind fun _ => Reaches.pure 0 u) (hf.bind fun _ => Muted.pure 0)

theorem Reaches.frame {op : Byte} {rest : List Byte} {s u : State} (h : Reaches (sendFrame op rest) s u) :
    ∃ t, runFrame op rest s = .next t ∧ { t with responses := u.responses } = u := by
  obtain ⟨_, t, hrun, hmute⟩ := h.run (sendFrame_muted op rest)
  exact ⟨t, runFrame_ok hrun, mute_eq_iff.mpr hmute⟩

/-! ## One instruction of a sequence -/

/-- The body of a command that ended without a verdict, its value apart. -/
theorem reaches_of_runCommand {α : Type} {op : Byte} {action : State → Res α} {value : α → Resp} {s t : State}
    (hf : Muted action) (h : runCommand op (fun s => (action s).bind fun a s => .ok (value a) s) s = .next t)
    (hclear : t.clear = true) : Reaches action s t := by
  obtain ⟨v, u, hrun, rfl⟩ := runCommand_clear h hclear
  obtain ⟨a, w, haction, hvalue⟩ := Res.bind_eq_ok.mp hrun
  cases hvalue
  exact Reaches.of_run hf haction rfl

section
variable {s t : State}

theorem reaches_of_writecmd {op : Byte} (h : exec (.writecmd op) s = .next t) (hclear : t.clear = true) :
    Reaches (writeCmd op) s t := reaches_of_runCommand (value := fun _ => 0) (writeCmd_muted op) h hclear

theorem reaches_of_writeenable (h : exec .writeenable s = .next t) (hclear : t.clear = true) :
    Reaches (writeCmd WireOp.writeEnable) s t := reaches_of_runCommand (value := fun _ => 0) (writeCmd_muted _) h hclear

theorem reaches_of_seek {op : Byte} {a : Addr} (h : exec (.seek op a) s = .next t) (hclear : t.clear = true) :
    Reaches (seek op a) s t := reaches_of_runCommand (value := fun _ => 0) (seek_muted op a) h hclear

theorem reaches_of_beginread {a : Addr} (h : exec (.beginread a) s = .next t) (hclear : t.clear = true) :
    Reaches (beginRead a) s t := reaches_of_runCommand (value := fun _ => 0) (beginRead_muted a) h hclear

theorem reaches_of_eraseblock {a : Addr} (h : exec (.eraseblock a) s = .next t) (hclear : t.clear = true) :
    Reaches (eraseBlock a) s t := reaches_of_runCommand (value := fun _ => 0) (eraseBlock_muted a) h hclear

theorem reaches_of_writepage {a : Addr} {data : List Byte} (h : exec (.writepage a data) s = .next t) (hclear : t.clear = true) :
    Reaches (writePage a data) s t := reaches_of_runCommand (value := fun _ => 0) (writePage_muted a data) h hclear

theorem reaches_of_readpending (h : exec .readpending s = .next t) (hclear : t.clear = true) : Reaches readPending s t :=
  reaches_of_runCommand readPending_muted h hclear

theorem reaches_of_readlast (h : exec .readlast s = .next t) (hclear : t.clear = true) : Reaches readLast s t :=
  reaches_of_runCommand readLast_muted h hclear

end

/-! ## Sequences -/

theorem runList_cons_some {i : Instr} {rest : List Instr} {s u : State} (h : runList (i :: rest) s = some u) :
    ∃ t, exec i s = .next t ∧ t.clear = true ∧ runList rest t = some u := by
  rw [runList] at h
  split at h
  · split at h
    · exact ⟨_, ‹_›, ‹_›, h⟩
    · cases h
  · cases h
  · cases h

theorem runList_one_some {i : Instr} {s u : State} (h : runList [i] s = some u) : exec i s = .next u ∧ u.clear = true := by
  obtain ⟨t, hrun, hclear, hrest⟩ := runList_cons_some h
  cases hrest
  exact ⟨hrun, hclear⟩

theorem runList_append_some {is js : List Instr} {s u : State} (h : runList (is ++ js) s = some u) :
    ∃ t, runList is s = some t ∧ runList js t = some u := by
  rw [runList_append] at h
  exact Option.bind_eq_some_iff.mp h

theorem reaches_of_deselect {s t : State} (h : exec .deselect s = .next t) (hclear : t.clear = true) : Reaches deselect s t := by
  rw [exec, execDeselect] at h
  obtain ⟨v, u, hrun, rfl⟩ := runCommand_clear h hclear
  obtain ⟨_, w, hphase, hbody⟩ := Res.bind_eq_ok.mp hrun
  obtain ⟨-, rfl⟩ := require_ok hphase
  obtain ⟨a, x, haction, hvalue⟩ := Res.bind_eq_ok.mp hbody
  cases hvalue
  exact Reaches.of_run deselect_muted haction rfl

/-- A TRANSFER that ended without a verdict was not given in READING; a first byte of a frame leaves CMD_OPEN. -/
theorem reaches_of_transfer {b : Byte} {s t : State} (h : exec (.transfer b) s = .next t) (hclear : t.clear = true) :
    s.pstate ≠ .reading ∧ Reaches (xferTracked b) s t ∧
      t.pstate = if s.pstate = .selected then .cmdOpen else s.pstate := by
  rw [exec, execTransfer] at h
  obtain ⟨v, u, hrun, rfl⟩ := runCommand_clear h hclear
  obtain ⟨_, w, hphase, hbody⟩ := Res.bind_eq_ok.mp hrun
  obtain ⟨hreading, rfl⟩ := require_ok hphase
  obtain ⟨a, x, haction, hvalue⟩ := Res.bind_eq_ok.mp hbody
  cases hvalue
  refine ⟨by simpa using hreading, Reaches.of_run (xferTracked_muted b) haction rfl, ?_⟩
  rw [xferTracked_eq] at haction
  obtain ⟨-, rfl, -⟩ := xfer_ok haction
  obtain ⟨hpstate, -⟩ := w.tracked_spec b
  exact (State.sent_pstate _ _).trans hpstate

/-- TRANSFERs in an open frame are a run of bytes. -/
theorem reaches_of_transfers (bytes : List Byte) {s u : State} (h : runList (bytes.map .transfer) s = some u)
    (hphase : s.pstate = .cmdOpen) : Reaches (sendAll bytes) s u := by
  induction bytes generalizing s with
  | nil =>
    cases h
    exact Reaches.pure () _
  | cons b rest ih =>
    obtain ⟨t, hrun, hclear, hrest⟩ := runList_cons_some h
    obtain ⟨-, htransfer, hpstate⟩ := reaches_of_transfer hrun hclear
    have hopen : t.pstate = .cmdOpen := by simpa [hphase] using hpstate
    have hbyte : Reaches (xfer b) s t := by
      obtain ⟨r, hr⟩ := htransfer
      rw [xferTracked, State.mute_pstate, hphase, if_neg (by decide)] at hr
      exact ⟨r, hr⟩
    exact hbyte.bind fun _ => ih hrest hopen

/-- `Select()` where CS is as the phase says and a command can be opened. -/
theorem select_selected {s : State} (hcs : s.cs = (s.pstate != .idle)) (hopen : canOpen s.pstate = true) :
    (select s).pstate = .selected ∧ (select s).cs = true := by
  cases hp : s.pstate with
  | idle =>
    rw [select_of_deasserted (by rw [hcs, hp]; rfl)]
    exact ⟨rfl, rfl⟩
  | selected =>
    have hhigh : s.cs = true := by rw [hcs, hp]; rfl
    rw [select_of_asserted hhigh]
    exact ⟨hp, hhigh⟩
  | cmdOpen => rw [hp] at hopen; cases hopen
  | reading => rw [hp] at hopen; cases hopen

theorem State.busInv_cs {s : State} (h : s.busInv = true) : s.cs = (s.pstate != .idle) := by
  simp only [State.busInv, Bool.and_eq_true, beq_iff_eq] at h
  obtain ⟨⟨⟨hcs, -⟩, -⟩, -⟩ := h
  exact hcs

/-- SELECT, the opcode and the further bytes, given as TRANSFERs outside CMD_OPEN, are a frame opened and fed. -/
theorem reaches_of_frame {op : Byte} {rest : List Byte} {s u : State} (hbus : s.busInv = true) (hphase : s.pstate ≠ .cmdOpen)
    (h : runList ([.select, .transfer op] ++ rest.map .transfer) s = some u) :
    canOpen s.pstate = true ∧ Reaches (fun s => (xferTracked op (select s)).bind fun _ s => sendAll rest s) s u := by
  obtain ⟨t, hselect, -, hrest⟩ := runList_cons_some h
  obtain ⟨v, htransfer, hclear, hbytes⟩ := runList_cons_some hrest
  rw [exec_select] at hselect
  cases hselect
  obtain ⟨hreading, hfirst, hpstate⟩ := reaches_of_transfer htransfer hclear
  rw [State.respond_pstate] at hreading hpstate
  have hcs := State.busInv_cs hbus
  have hcan : canOpen s.pstate = true := by
    cases hp : s.pstate with
    | idle => rfl
    | selected => rfl
    | cmdOpen => exact absurd hp hphase
    | reading =>
      rw [select_of_asserted (by rw [hcs, hp]; rfl)] at hreading
      exact absurd hp hreading
  obtain ⟨hselected, -⟩ := select_selected hcs hcan
  rw [hselected, if_pos rfl] at hpstate
  refine ⟨hcan, Reaches.bind ?_ fun _ => reaches_of_transfers rest hbytes hpstate⟩
  obtain ⟨r, hr⟩ := hfirst
  exact ⟨r, (congrArg (xferTracked op) (select_muted s)).trans hr⟩

theorem reaches_of_wholeFrame {op : Byte} {rest : List Byte} {s u : State} (hbus : s.busInv = true)
    (hphase : s.pstate ≠ .cmdOpen) (h : runList ([.select, .transfer op] ++ rest.map .transfer ++ [.deselect]) s = some u) :
    Reaches (sendFrame op rest) s u := by
  obtain ⟨t, hframe, hclose⟩ := runList_append_some h
  obtain ⟨hcan, hopened⟩ := reaches_of_frame hbus hphase hframe
  obtain ⟨hrun, hclear⟩ := runList_one_some hclose
  refine (reaches_require (p := fun s => canOpen s.pstate) hcan).bind fun _ => ?_
  have hall := hopened.bind fun _ => reaches_of_deselect hrun hclear
  simp only [Res.bind_assoc] at hall
  exact hall

/-- SEEK's own expansion: the frame is left open. -/
theorem reaches_of_openFrame {op : Byte} {a : Addr} {s u : State} (hbus : s.busInv = true) (hphase : s.pstate ≠ .cmdOpen)
    (h : runList ([.select, .transfer op] ++ (wireAddr a).map .transfer) s = some u) : Reaches (seek op a) s u := by
  obtain ⟨hcan, hopened⟩ := reaches_of_frame hbus hphase h
  exact (reaches_require (p := fun s => canOpen s.pstate) hcan).bind fun _ => hopened

/-- Where the operation runs, its phase check has passed. -/
theorem canOpen_of_reaches {α : Type} {f : State → Res α} {s u : State} (h : Reaches f s u) (hf : Muted f)
    (hmisuse : canOpen s.pstate = false → f s = .halt .misuse s) : canOpen s.pstate = true := by
  obtain ⟨a, t, hrun, -⟩ := h.run hf
  by_contra hphase
  rw [hmisuse (by simpa using hphase)] at hrun
  cases hrun

/-- A translating command with a page is the primitive at the physical address. -/
theorem Reaches.translating {op : Byte} {translator : State → Res Addr} {action : Addr → State → Res Unit} {a : Addr}
    {s u : State} (h : Reaches (action a) s u) (hf : Muted (action a))
    (hmisuse : canOpen s.pstate = false → action a s = .halt .misuse s) (htranslated : translator s = .ok a s) :
    ∃ t, translatingCommand op translator action s = .next t ∧ { t with responses := u.responses } = u := by
  rw [translatingCommand_translated (canOpen_of_reaches h hf hmisuse) htranslated]
  exact h.dataless hf

/-! ## The phase along a page write -/

theorem xferTracked_phase {b r : Byte} {s t : State} (h : xferTracked b s = .ok r t) :
    t.pstate = (if s.pstate = .selected then .cmdOpen else s.pstate) ∧ t.cs = s.cs := by
  rw [xferTracked_eq] at h
  obtain ⟨-, rfl, -⟩ := xfer_ok h
  obtain ⟨hpstate, -, hcs, -⟩ := s.tracked_spec b
  exact ⟨(State.sent_pstate _ _).trans hpstate, (State.sent_cs _ _).trans hcs⟩

theorem sendAll_phase {bytes : List Byte} {s t : State} {u : Unit} (h : sendAll bytes s = .ok u t) : t.pstate = s.pstate := by
  induction bytes generalizing s with
  | nil => cases h; rfl
  | cons b rest ih =>
    obtain ⟨_, w, hbyte, hrest⟩ := Res.bind_eq_ok.mp h
    obtain ⟨-, rfl, -⟩ := xfer_ok hbyte
    exact (ih hrest).trans (State.sent_pstate _ _)

section
variable {op : Byte} {s t : State} {u : Unit} (hcs : s.cs = (s.pstate != .idle))
include hcs

theorem seek_phase {a : Addr} (h : seek op a s = .ok u t) : t.pstate = .cmdOpen := by
  obtain ⟨_, w, hcheck, hopening⟩ := Res.bind_eq_ok.mp h
  obtain ⟨hcan, rfl⟩ := require_ok hcheck
  obtain ⟨_, v, hopcode, hbytes⟩ := Res.bind_eq_ok.mp hopening
  obtain ⟨hselected, -⟩ := select_selected hcs hcan
  rw [sendAll_phase hbytes, (xferTracked_phase hopcode).1, hselected, if_pos rfl]

theorem writeCmd_phase (h : writeCmd op s = .ok u t) : t.pstate = .idle ∧ t.cs = false := by
  obtain ⟨_, w, hcheck, hopening⟩ := Res.bind_eq_ok.mp h
  obtain ⟨hcan, rfl⟩ := require_ok hcheck
  obtain ⟨_, v, hopcode, hclose⟩ := Res.bind_eq_ok.mp hopening
  obtain ⟨-, hhigh⟩ := select_selected hcs hcan
  obtain ⟨-, rfl⟩ := deselect_ok hclose
  rw [if_pos ((xferTracked_phase hopcode).2.trans hhigh)]
  exact ⟨rfl, rfl⟩

end

/-- The page write from its parts. -/
theorem reaches_of_writepage_expansion {a : Addr} {data : List Byte} {s u : State} (hbus : s.busInv = true)
    (h : runList ([.writeenable, .seek s.cfg.opWrite a] ++ data.map .transfer ++ [.deselect]) s = some u) :
    Reaches (writePage a data) s u := by
  obtain ⟨w, hsends, hclose⟩ := runList_append_some h
  obtain ⟨t, henable, tclear, hrest⟩ := runList_cons_some hsends
  obtain ⟨v, hseek, vclear, hdata⟩ := runList_cons_some hrest
  obtain ⟨hdeselect, uclear⟩ := runList_one_some hclose
  have hlatched := reaches_of_writeenable henable tclear
  have hopened := reaches_of_seek hseek vclear
  obtain ⟨_, t', runEnable, tmute⟩ := hlatched.run (writeCmd_muted _)
  obtain ⟨_, v', runSeek, vmute⟩ := hopened.run (seek_muted _ a)
  obtain ⟨hidle, hlow⟩ := writeCmd_phase (State.busInv_cs hbus) runEnable
  have hcfg : t.cfg = s.cfg := by
    have hkept : s.kept (writeCmd WireOp.writeEnable s).final := (writeCmd_evolves WireOp.writeEnable s).kept
    rw [runEnable] at hkept
    exact (congrArg State.cfg tmute).symm.trans (State.kept_cfg hkept)
  have tidle : t.pstate = .idle := (congrArg State.pstate tmute).symm.trans hidle
  have tlow : t.cs = false := (congrArg State.cs tmute).symm.trans hlow
  have vopen : v'.pstate = .cmdOpen := seek_phase (by rw [tidle, tlow]; rfl) runSeek
  have hphase : v.pstate = .cmdOpen := (congrArg State.pstate vmute).symm.trans vopen
  rw [← hcfg] at hopened
  have hrest := hopened.bind fun _ => (reaches_of_transfers data hdata hphase).bind fun _ => reaches_of_deselect hdeselect uclear
  exact hlatched.bind fun _ => hrest

/-- Settles O46: each command's body is the bodies of its expansion in order. -/
theorem commandsEqualTheirExpansions : Obligations.CommandsEqualTheirExpansions := by
  intro i is s u hexpansion hbus hphase hrun
  have hwhole : ∀ {op rest}, is = [.select, .transfer op] ++ rest.map .transfer ++ [.deselect] → Reaches (sendFrame op rest) s u :=
    fun h => reaches_of_wholeFrame hbus hphase (h ▸ hrun)
  cases i with
  | writecmd op => cases hexpansion; exact (hwhole (rest := []) rfl).dataless (writeCmd_muted op)
  | wake =>
    cases hexpansion
    obtain ⟨hstep, hclear⟩ := runList_one_some hrun
    exact (reaches_of_writecmd hstep hclear).dataless (writeCmd_muted _)
  | sleep =>
    cases hexpansion
    obtain ⟨hstep, hclear⟩ := runList_one_some hrun
    exact (reaches_of_writecmd hstep hclear).dataless (writeCmd_muted _)
  | writeenable =>
    cases hexpansion
    obtain ⟨hstep, hclear⟩ := runList_one_some hrun
    exact (reaches_of_writecmd hstep hclear).dataless (writeCmd_muted _)
  | seek op a => cases hexpansion; exact (reaches_of_openFrame hbus hphase hrun).dataless (seek_muted op a)
  | readpending16 =>
    cases hexpansion
    obtain ⟨t, hfirst, tclear, hrest⟩ := runList_cons_some hrun
    obtain ⟨hsecond, hclear⟩ := runList_one_some hrest
    exact Reaches.command ((reaches_of_readpending hfirst tclear).bind fun _ => (reaches_of_readpending hsecond hclear).bind
      fun _ => Reaches.pure _ u) (readPending_muted.bind fun _ => readPending_muted.bind fun _ => Muted.pure _)
  | opReleasePd => cases hexpansion; exact (hwhole (rest := []) rfl).frame
  | opPowerDown => cases hexpansion; exact (hwhole (rest := []) rfl).frame
  | opWriteEnable => cases hexpansion; exact (hwhole (rest := []) rfl).frame
  | opRead a dummies => cases hexpansion; exact (hwhole rfl).frame
  | opWrite a data => cases hexpansion; exact (hwhole rfl).frame
  | opErase a => cases hexpansion; exact (hwhole rfl).frame
  | opJedecId dummies => cases hexpansion; exact (hwhole rfl).frame
  | opReadStatus1 dummies => cases hexpansion; exact (hwhole rfl).frame
  | opReadStatus2 dummies => cases hexpansion; exact (hwhole rfl).frame
  | readpending24 =>
    cases hexpansion
    obtain ⟨t, hfirst, tclear, hrest⟩ := runList_cons_some hrun
    obtain ⟨v, hsecond, vclear, hlast⟩ := runList_cons_some hrest
    obtain ⟨hthird, hclear⟩ := runList_one_some hlast
    exact Reaches.command
      ((reaches_of_readpending hfirst tclear).bind fun _ => (reaches_of_readpending hsecond vclear).bind fun _ =>
        (reaches_of_readpending hthird hclear).bind fun _ => Reaches.pure _ u)
      (readPending_muted.bind fun _ => readPending_muted.bind fun _ => readPending_muted.bind fun _ => Muted.pure _)
  | readpending32 =>
    cases hexpansion
    obtain ⟨t, hfirst, tclear, hrest⟩ := runList_cons_some hrun
    obtain ⟨v, hsecond, vclear, hrest⟩ := runList_cons_some hrest
    obtain ⟨w, hthird, wclear, hlast⟩ := runList_cons_some hrest
    obtain ⟨hfourth, hclear⟩ := runList_one_some hlast
    exact Reaches.command
      ((reaches_of_readpending hfirst tclear).bind fun _ => (reaches_of_readpending hsecond vclear).bind fun _ =>
        (reaches_of_readpending hthird wclear).bind fun _ => (reaches_of_readpending hfourth hclear).bind fun _ =>
          Reaches.pure _ u)
      (readPending_muted.bind fun _ => readPending_muted.bind fun _ => readPending_muted.bind fun _ =>
        readPending_muted.bind fun _ => Muted.pure _)
  | readlast16 =>
    cases hexpansion
    obtain ⟨t, hfirst, tclear, hlast⟩ := runList_cons_some hrun
    obtain ⟨hsecond, hclear⟩ := runList_one_some hlast
    have hboth : Reaches readLast16 s u := (reaches_of_readpending hfirst tclear).bind fun _ =>
      (reaches_of_readlast hsecond hclear).bind fun _ => Reaches.pure _ u
    have hmuted : Muted readLast16 := readPending_muted.bind fun _ => readLast_muted.bind fun _ => Muted.pure _
    exact Reaches.command (hboth.bind fun _ => Reaches.pure _ u) (hmuted.bind fun _ => Muted.pure _)
  | readlast24 =>
    cases hexpansion
    obtain ⟨t, hfirst, tclear, hrest⟩ := runList_cons_some hrun
    obtain ⟨v, hsecond, vclear, hlast⟩ := runList_cons_some hrest
    obtain ⟨hthird, hclear⟩ := runList_one_some hlast
    exact Reaches.command
      ((reaches_of_readpending hfirst tclear).bind fun _ => (reaches_of_readpending hsecond vclear).bind fun _ =>
        (reaches_of_readlast hthird hclear).bind fun _ => Reaches.pure _ u)
      (readPending_muted.bind fun _ => readPending_muted.bind fun _ => readLast_muted.bind fun _ => Muted.pure _)
  | readlast32 =>
    cases hexpansion
    obtain ⟨t, hfirst, tclear, hrest⟩ := runList_cons_some hrun
    obtain ⟨v, hsecond, vclear, hrest⟩ := runList_cons_some hrest
    obtain ⟨w, hthird, wclear, hlast⟩ := runList_cons_some hrest
    obtain ⟨hfourth, hclear⟩ := runList_one_some hlast
    exact Reaches.command
      ((reaches_of_readpending hfirst tclear).bind fun _ => (reaches_of_readpending hsecond vclear).bind fun _ =>
        (reaches_of_readpending hthird wclear).bind fun _ => (reaches_of_readlast hfourth hclear).bind fun _ =>
          Reaches.pure _ u)
      (readPending_muted.bind fun _ => readPending_muted.bind fun _ => readPending_muted.bind fun _ =>
        readLast_muted.bind fun _ => Muted.pure _)
  | eraseblock a =>
    cases hexpansion
    obtain ⟨t, henable, tclear, hrest⟩ := runList_cons_some hrun
    obtain ⟨v, hseek, vclear, hlast⟩ := runList_cons_some hrest
    obtain ⟨hclose, hclear⟩ := runList_one_some hlast
    have hall : Reaches (eraseBlock a) s u := (reaches_of_writeenable henable tclear).bind fun _ =>
      (reaches_of_seek hseek vclear).bind fun _ => reaches_of_deselect hclose hclear
    exact hall.dataless (eraseBlock_muted a)
  | writepage a data => cases hexpansion; exact (reaches_of_writepage_expansion hbus hrun).dataless (writePage_muted a data)
  | seekdata o =>
    obtain ⟨hinited, hlist⟩ := Option.ite_none_right_eq_some.mp hexpansion
    cases hlist
    obtain ⟨hstep, hclear⟩ := runList_one_some hrun
    rw [exec_seekdata]
    exact (reaches_of_beginread hstep hclear).translating (beginRead_muted _) (beginRead_misuse _)
      (toDataAddress_inited o hinited)
  | seeksave o =>
    obtain ⟨hinited, hlist⟩ := Option.ite_none_right_eq_some.mp hexpansion
    cases hlist
    obtain ⟨hstep, hclear⟩ := runList_one_some hrun
    rw [exec_seeksave]
    exact (reaches_of_beginread hstep hclear).translating (beginRead_muted _) (beginRead_misuse _)
      (toSaveAddress_inited o hinited)
  | seekdataarray index size extra =>
    obtain ⟨hinited, hlist⟩ := Option.ite_none_right_eq_some.mp hexpansion
    cases hlist
    obtain ⟨hstep, hclear⟩ := runList_one_some hrun
    have hseek : Reaches (seekData (arrayOffset index size extra)) s u :=
      reaches_of_runCommand (value := fun _ => 0) (seekData_muted _) hstep hclear
    exact hseek.dataless (seekData_muted _)
  | erasesaveblock p =>
    obtain ⟨hinited, hlist⟩ := Option.ite_none_right_eq_some.mp hexpansion
    cases hlist
    obtain ⟨hstep, hclear⟩ := runList_one_some hrun
    rw [exec_erasesaveblock]
    exact (reaches_of_eraseblock hstep hclear).translating (eraseBlock_muted _) (eraseBlock_misuse _)
      (toSavePage_inited p hinited)
  | writesavepage p data =>
    obtain ⟨hinited, hlist⟩ := Option.ite_none_right_eq_some.mp hexpansion
    cases hlist
    obtain ⟨hstep, hclear⟩ := runList_one_some hrun
    rw [exec_writesavepage]
    exact (reaches_of_writepage hstep hclear).translating (writePage_muted _ data) (writePage_misuse _ data)
      (toSavePage_inited p hinited)
  | _ => cases hexpansion

end Sys2Proof.Machine
end

section
/-! PROOFS. Family 43, the bitmap blitter: DRAWBITMAP runs to its end (`43_blitter.md` R180, R199 items 5 and 6), whatever the
header says and whatever the part answers. -/

namespace Sys2Proof.Machine

/-! ## What a bitmap in progress keeps -/

/-- From `s` to `t` a part of a DRAWBITMAP ran: the part's array, latch and power state, WE and the responses are as before, and
nothing else of the engine but the bus, the blitter's temporaries and bytes inside FB. -/
structure Drawing (s t : State) : Prop where
  we : t.we = s.we
  responses : t.responses = s.responses
  mem : t.flash.mem = s.flash.mem
  wel : t.flash.wel = s.flash.wel
  pd : t.flash.pd = s.flash.pd
  bad : t.flash.bad = s.flash.bad
  outside : ∀ i : Nat, s.cfg.fbBytes ≤ i → Mem.read .fb t.fb i = Mem.read .fb s.fb i
  kept : s.kept { t with fb := s.fb, blit := s.blit }

theorem Drawing.cfg {s t : State} (h : Drawing s t) : t.cfg = s.cfg := by
  obtain ⟨-, -, -, -, -, -, -, -, -, hcfg, -⟩ := h.kept
  exact hcfg

theorem Drawing.inited {s t : State} (h : Drawing s t) : t.inited = s.inited := by
  obtain ⟨-, -, hinited, -⟩ := h.kept
  exact hinited

theorem Drawing.refl (s : State) : Drawing s s := ⟨rfl, rfl, rfl, rfl, rfl, rfl, fun _ _ => rfl, s.kept_refl⟩

theorem Drawing.trans {s t u : State} (h : Drawing s t) (g : Drawing t u) : Drawing s u where
  we := g.we.trans h.we
  responses := g.responses.trans h.responses
  mem := g.mem.trans h.mem
  wel := g.wel.trans h.wel
  pd := g.pd.trans h.pd
  bad := g.bad.trans h.bad
  outside := fun i hi => (g.outside i (by rw [h.cfg]; exact hi)).trans (h.outside i hi)
  kept := by
    obtain ⟨hdata, hsave, hinited, -, hfault, hrefused, hstuck, -, hpm, hcfg, hhost⟩ := h.kept
    obtain ⟨gdata, gsave, ginited, -, gfault, grefused, gstuck, -, gpm, gcfg, ghost⟩ := g.kept
    exact ⟨gdata.trans hdata, gsave.trans hsave, ginited.trans hinited, rfl, gfault.trans hfault, grefused.trans hrefused,
      gstuck.trans hstuck, rfl, gpm.trans hpm, gcfg.trans hcfg, ghost.trans hhost⟩

/-- A step of the bus that leaves WE, the responses and what the part holds. -/
theorem Drawing.of_kept {s t : State} (hkept : s.kept t) (hwe : t.we = s.we) (hresponses : t.responses = s.responses)
    (hmem : t.flash.mem = s.flash.mem) (hwel : t.flash.wel = s.flash.wel) (hpd : t.flash.pd = s.flash.pd)
    (hbad : t.flash.bad = s.flash.bad) : Drawing s t := by
  refine ⟨hwe, hresponses, hmem, hwel, hpd, hbad, fun i _ => by rw [State.kept_fb hkept], ?_⟩
  obtain ⟨hdata, hsave, hinited, -, hfault, hrefused, hstuck, -, hpm, hcfg, hhost⟩ := hkept
  exact ⟨hdata, hsave, hinited, rfl, hfault, hrefused, hstuck, rfl, hpm, hcfg, hhost⟩

theorem Drawing.withBlit (s : State) (b : Option Blit) : Drawing s (s.withBlit b) :=
  ⟨rfl, rfl, rfl, rfl, rfl, rfl, fun _ _ => rfl, by simp [State.kept]⟩

theorem composeAt_read_other (mode : Byte) {i j : Nat} (v m : Byte) (s : State) (h : j ≠ i) :
    Mem.read .fb (composeAt mode i v m s).fb j = Mem.read .fb s.fb j := by
  rw [composeAt_read, if_neg h]

/-- A column in the viewport writes inside FB only (`43_blitter.md` R199, item 1). -/
theorem composeColumn_drawing {b : Blit} (mode : Byte) {c : Nat} (v m : Byte) {s : State} (hb : b.inViewport s.cfg)
    (hc : (c : Int) < b.renderW) : Drawing s (composeColumn b mode c v m s) := by
  obtain ⟨hcol, hcolumns⟩ := hb
  have hother : ∀ {r : Int} {i : Nat}, rowExists s.cfg r = true → s.cfg.fbBytes ≤ i → i ≠ fbIndex s.cfg b r c :=
    fun hr hi heq => by have := fbIndex_lt s.cfg b _ c hr hcol (hcolumns c hc); omega
  have houtside : ∀ i, s.cfg.fbBytes ≤ i → Mem.read .fb (composeColumn b mode c v m s).fb i = Mem.read .fb s.fb i := by
    intro i hi
    unfold composeColumn
    dsimp only
    split <;> split
    · rename_i hspill hrow
      rw [composeAt_read_other _ _ _ _ (hother hspill.2 hi), composeAt_read_other _ _ _ _ (hother hrow hi)]
    · rename_i hspill _
      rw [composeAt_read_other _ _ _ _ (hother hspill.2 hi)]
    · rename_i hrow
      rw [composeAt_read_other _ _ _ _ (hother hrow hi)]
    · rfl
  rw [composeColumn_same] at houtside ⊢
  exact ⟨rfl, rfl, rfl, rfl, rfl, rfl, houtside, by simp [State.kept]⟩

/-! ## The bus of a bitmap in progress -/

/-- In a pipelined read of the blitter: a byte can be harvested, and the frame that will be closed is a read, as far as the part
heeds it. -/
structure InRead (s : State) : Prop where
  canHarvest : s.canHarvest = true
  cmdop : s.cmdop = WireOp.read
  frame : s.flash.bad = true ∨ s.flash.op = WireOp.read
  awake : (!s.cfg.strict || !s.flash.pd) = true

theorem InRead.congr {s t : State} (h : InRead s) (hpstate : t.pstate = s.pstate) (hcs : t.cs = s.cs)
    (hcmdop : t.cmdop = s.cmdop) (hflash : t.flash = s.flash) (hcfg : t.cfg = s.cfg) : InRead t where
  canHarvest := by
    have hsame : t.canHarvest = s.canHarvest := by simp only [State.canHarvest, hpstate, hcs, hflash, hcfg]
    exact hsame.trans h.canHarvest
  cmdop := hcmdop.trans h.cmdop
  frame := hflash ▸ h.frame
  awake := by rw [hcfg, hflash]; exact h.awake

/-- Between two frames of the blitter: the next one can begin, and the last one was a read. -/
structure BetweenReads (s : State) : Prop where
  canBegin : s.canBegin = true
  closed : s.closed = true
  cmdop : s.cmdop = WireOp.read

section
variable {s : State}

theorem beginRead_inRead (a : Addr) (h : s.canBegin = true) (hread : s.cfg.opWrite ≠ WireOp.read) :
    ∃ t, beginRead a s = .ok () t ∧ Drawing s t ∧ InRead t := by
  obtain ⟨-, -, -, hn, hawake⟩ := canBegin_parts h
  obtain ⟨t, hrun, hopen⟩ := beginRead_run a s h
  have hbad : t.flash.bad = s.flash.bad := by
    rw [hopen.flash]
    exact FlashPart.feed_bad_same _ _ _ fun _ _ => .inl (by rw [hawake]; rfl)
  have hpd : t.flash.pd = s.flash.pd := by rw [hopen.flash, FlashPart.feed_pd]
  refine ⟨t, hrun, Drawing.of_kept hopen.kept hopen.we (hopen.responses.trans (List.append_nil _))
    (by rw [hopen.flash, FlashPart.feed_mem]) (by rw [hopen.flash, FlashPart.feed_wel]) hpd hbad,
    hopen.canHarvest h hread, hopen.cmdop, ?_, by rw [State.kept_cfg hopen.kept, hpd]; exact hawake⟩
  cases hs : s.flash.bad with
  | true => exact .inl (hbad.trans hs)
  | false =>
    refine .inr ?_
    rw [hopen.flash, FlashPart.feed_cons, FlashPart.feed_op _ _ _ (by simp), FlashPart.exchange_op, if_pos ⟨hs, hn⟩]

theorem InRead.readPending_run (h : InRead s) : ∃ b t, readPending s = .ok b t ∧ Drawing s t ∧ InRead t := by
  obtain ⟨t, hrun, hbyte⟩ := Machine.readPending_run s h.canHarvest
  obtain ⟨-, -, -, hn, -⟩ := canHarvest_parts h.canHarvest
  have hbad : t.flash.bad = s.flash.bad := by
    rw [hbyte.flash]
    exact FlashPart.feed_bad_same _ _ _ fun _ _ => .inr hn
  have hop : t.flash.op = s.flash.op := by rw [hbyte.flash, FlashPart.feed_op _ _ _ hn]
  have hpd : t.flash.pd = s.flash.pd := by rw [hbyte.flash, FlashPart.feed_pd]
  exact ⟨_, t, hrun, Drawing.of_kept hbyte.kept hbyte.we (hbyte.responses.trans (List.append_nil _))
    (by rw [hbyte.flash, FlashPart.feed_mem]) (by rw [hbyte.flash, FlashPart.feed_wel]) hpd hbad,
    hbyte.canHarvest h.canHarvest, hbyte.cmdop.trans h.cmdop, by rw [hbad, hop]; exact h.frame,
    by rw [State.kept_cfg hbyte.kept, hpd]; exact h.awake⟩

/-- The close of a read frame commits nothing, whether the part heeds it or not. -/
theorem deselect_readFrame {cfg : Config} {f : FlashPart} (hframe : f.bad = true ∨ f.op = WireOp.read)
    (hread : cfg.opWrite ≠ WireOp.read) : f.deselect cfg = { f with n := 0 } := by
  rcases hframe with hbad | hop
  · exact FlashPart.deselect_of_bad cfg hbad
  · exact FlashPart.deselect_read hop hread

theorem InRead.readLast_run (h : InRead s) (hread : s.cfg.opWrite ≠ WireOp.read) :
    ∃ b t, readLast s = .ok b t ∧ Drawing s t ∧ BetweenReads t := by
  obtain ⟨t, hrun, hend⟩ := Machine.readLast_run s h.canHarvest
  obtain ⟨hbus, -⟩ := canHarvest_parts h.canHarvest
  have hflash : t.flash = { s.flash with n := 0 } := hend.flash.trans (deselect_readFrame h.frame hread)
  have hwe : t.we = s.we := by rw [hend.we, h.cmdop, weAfterClose_read hread]
  have hclosed : t.closed = true := by simp [State.closed, hend.cs, hend.pstate, hend.inflight]
  refine ⟨_, t, hrun, Drawing.of_kept hend.kept hwe (hend.responses.trans (List.append_nil _)) (by rw [hflash]) (by rw [hflash])
    (by rw [hflash]) (by rw [hflash]), ?_, hclosed, hend.cmdop.trans h.cmdop⟩
  have hawake := h.awake
  simp [State.canBegin, State.canTransfer, canOpen, State.kept_cfg hend.kept, hbus, hend.inflight, hend.pstate, hend.cs, hflash]
  simpa using hawake

theorem InRead.readLast16_run (h : InRead s) (hread : s.cfg.opWrite ≠ WireOp.read) :
    ∃ v t, readLast16 s = .ok v t ∧ Drawing s t ∧ BetweenReads t := by
  obtain ⟨b, t, hfirst, dfirst, hin⟩ := h.readPending_run
  obtain ⟨b', u, hlast, dlast, hbetween⟩ := hin.readLast_run (by rw [dfirst.cfg]; exact hread)
  exact ⟨_, u, by rw [readLast16, hfirst, Res.bind_ok, hlast, Res.bind_ok], dfirst.trans dlast, hbetween⟩

theorem seekData_inRead (o : Addr) (h : s.canBegin = true) (hinited : s.inited = true) (hread : s.cfg.opWrite ≠ WireOp.read) :
    ∃ t, seekData o s = .ok () t ∧ Drawing s t ∧ InRead t := by
  obtain ⟨-, hphase, -⟩ := canBegin_parts h
  obtain ⟨t, hrun, hdrawing, hin⟩ := beginRead_inRead (translate s.dataPage o) h hread
  exact ⟨t, by rw [seekData, require_of hphase, Res.bind_ok, toDataAddress_inited o hinited, Res.bind_ok, hrun], hdrawing, hin⟩

/-! ## The blitter -/

theorem drawColumn_inRead {b : Blit} (mode row : Byte) {c : Nat} (h : InRead s) (hb : b.inViewport s.cfg)
    (hc : (c : Int) < b.renderW) : ∃ t, drawColumn b mode row c s = .ok () t ∧ Drawing s t ∧ InRead t := by
  obtain ⟨p, t, hpixel, dpixel, tin⟩ := h.readPending_run
  have hmask : ∃ mp u, fetchMask mode t = .ok mp u ∧ Drawing t u ∧ InRead u := by
    rw [fetchMask]
    split
    · exact tin.readPending_run
    · exact ⟨0, t, rfl, Drawing.refl t, tin⟩
  obtain ⟨mp, u, hfetch, dmask, uin⟩ := hmask
  have hdraws := dpixel.trans dmask
  have dcolumn := composeColumn_drawing mode (pixelByte mode p) (effectiveMask mode p mp row) (hdraws.cfg.symm ▸ hb) hc
  refine ⟨_, by rw [drawColumn, hpixel, Res.bind_ok, hfetch, Res.bind_ok], hdraws.trans dcolumn, ?_⟩
  rw [composeColumn_same]
  exact uin.congr rfl rfl rfl rfl rfl

theorem drawColumns_inRead {b : Blit} (mode row : Byte) (count c : Nat) (h : InRead s) (hb : b.inViewport s.cfg)
    (hc : c + count ≤ b.renderW.toNat) : ∃ t, drawColumns b mode row count c s = .ok () t ∧ Drawing s t ∧ InRead t := by
  induction count generalizing c s with
  | zero => exact ⟨s, rfl, Drawing.refl s, h⟩
  | succ k ih =>
    obtain ⟨t, hcolumn, dcolumn, tin⟩ := drawColumn_inRead mode row (c := c) h hb (by omega)
    obtain ⟨u, hrest, drest, uin⟩ := ih (c + 1) tin (dcolumn.cfg.symm ▸ hb) (by omega)
    exact ⟨u, by rw [drawColumns, hcolumn, Res.bind_ok, hrest], dcolumn.trans drest, uin⟩

theorem drawRow_run (mode : Byte) (i : Nat) {b : Blit} (h : s.canBegin = true) (hinited : s.inited = true)
    (hread : s.cfg.opWrite ≠ WireOp.read) (hb : b.inViewport s.cfg) :
    ∃ t, drawRow mode i b s = .ok () t ∧ Drawing s t ∧ BetweenReads t := by
  have dblit := Drawing.withBlit s (some b)
  obtain ⟨t, hseek, dseek, tin⟩ := seekData_inRead (s := s.withBlit (some b)) b.src h hinited hread
  have dopen := dblit.trans dseek
  obtain ⟨u, hcolumns, dcolumns, uin⟩ := drawColumns_inRead mode (rowMask b (b.skipTop + i)) b.renderW.toNat 0 tin
    (dopen.cfg.symm ▸ hb) (Nat.zero_add _).le
  have ddrawn := dopen.trans dcolumns
  obtain ⟨_, v, hlast, dlast, hbetween⟩ := uin.readLast_run (by rw [ddrawn.cfg]; exact hread)
  exact ⟨v, by rw [drawRow, hseek, Res.bind_ok, hcolumns, Res.bind_ok, hlast, Res.bind_ok], ddrawn.trans dlast, hbetween⟩

theorem drawRows_run (mode : Byte) (count i : Nat) {b : Blit} (h : BetweenReads s) (hinited : s.inited = true)
    (hread : s.cfg.opWrite ≠ WireOp.read) (hb : b.inViewport s.cfg) :
    ∃ t, drawRows mode count i b s = .ok () t ∧ Drawing s t ∧ BetweenReads t := by
  induction count generalizing i b s with
  | zero => exact ⟨s, rfl, Drawing.refl s, h⟩
  | succ k ih =>
    obtain ⟨t, hrow, drow, tbetween⟩ := drawRow_run mode i h.canBegin hinited hread hb
    obtain ⟨u, hrest, drest, ubetween⟩ := ih (i + 1) (b := nextRow b) tbetween (drow.inited.trans hinited)
      (by rw [drow.cfg]; exact hread) (nextRow_inViewport (drow.cfg.symm ▸ hb))
    exact ⟨u, by rw [drawRows, hrow, Res.bind_ok, hrest], drow.trans drest, ubetween⟩

theorem readHeader_run (addr : Addr) (h : s.canBegin = true) (hinited : s.inited = true) (hread : s.cfg.opWrite ≠ WireOp.read) :
    ∃ size t, readHeader addr s = .ok size t ∧ Drawing s t ∧ BetweenReads t := by
  obtain ⟨t, hseek, dseek, tin⟩ := seekData_inRead addr h hinited hread
  obtain ⟨w1, u, hhigh, dhigh, uin⟩ := tin.readPending_run
  obtain ⟨w0, v, hlow, dlow, vin⟩ := uin.readPending_run
  have dwidth := (dseek.trans dhigh).trans dlow
  obtain ⟨height, w, hheight, dheight, hbetween⟩ := vin.readLast16_run (by rw [dwidth.cfg]; exact hread)
  exact ⟨_, w, by rw [readHeader, hseek, Res.bind_ok, hhigh, Res.bind_ok, hlow, Res.bind_ok, hheight, Res.bind_ok],
    dwidth.trans dheight, hbetween⟩

theorem BetweenReads.withBlit (h : BetweenReads s) (b : Option Blit) : BetweenReads (s.withBlit b) :=
  ⟨h.canBegin, h.closed, h.cmdop⟩

end

/-- DRAWBITMAP's body runs to its end, with the blitter's temporaries given back. -/
theorem drawBitmap_run (x y : Half) (addr : Addr) (frame mode : Byte) {s : State} (h : s.canBegin = true)
    (hinited : s.inited = true) (hread : s.cfg.opWrite ≠ WireOp.read) :
    ∃ t, drawBitmap x y addr frame mode s = .ok () t ∧ Drawing s t ∧ BetweenReads t ∧ (s.blit = none → t.blit = none) := by
  obtain ⟨size, t, hheader, dheader, tbetween⟩ := readHeader_run addr h hinited hread
  rw [drawBitmap, hheader, Res.bind_ok]
  split
  · have hevolves : Evolves s (readHeader addr s).final := readHeader_evolves addr s
    rw [hheader] at hevolves
    obtain ⟨-, -, -, hblit, -⟩ := hevolves.kept
    exact ⟨t, rfl, dheader, tbetween, hblit.trans⟩
  · have hview := geometry_inViewport t.cfg (sext16 x) (sext16 y) size.1 size.2 addr frame (modeMasked mode)
    obtain ⟨u, hrows, drows, ubetween⟩ := drawRows_run mode
      (geometry t.cfg (sext16 x) (sext16 y) size.1 size.2 addr frame (modeMasked mode)).rows.toNat 0 tbetween
      (dheader.inited.trans hinited) (by rw [dheader.cfg]; exact hread) hview
    exact ⟨u.withBlit none, by simp only [hrows, Res.bind_ok], (dheader.trans drows).trans (Drawing.withBlit u none),
      ubetween.withBlit none, fun _ => rfl⟩

theorem exec_drawbitmap_ok {x y : Half} {addr : Addr} {frame mode : Byte} {s t : State} (hphase : canOpen s.pstate = true)
    (hinited : s.inited = true) (hrun : drawBitmap x y addr frame mode s = .ok () t) :
    exec (.drawbitmap x y addr frame mode) s = .next (t.respond 0) := by
  rw [exec, execDrawbitmap]
  exact runCommand_ok (by rw [require_of hphase, Res.bind_ok, if_pos hinited, hrun, andRespond0, Res.bind_ok])

/-- Settles O54: every step of the body can run, and each keeps what the bitmap keeps. -/
theorem drawbitmapCompletes : Obligations.DrawbitmapCompletes := by
  intro x y addr frame mode s
  refine ⟨fun hcfg hbegin hinited => ?_, fun hphase => ?_, exec_drawbitmap_uninit x y addr frame mode⟩
  · obtain ⟨-, hphase, -⟩ := canBegin_parts hbegin
    obtain ⟨t, hrun, hdrawing, hbetween, hblit⟩ := drawBitmap_run x y addr frame mode hbegin hinited
      (Config.wf_opWrite_ne_read hcfg)
    exact ⟨t.respond 0, exec_drawbitmap_ok hphase hinited hrun, hbetween.closed, hbetween.cmdop, hdrawing.we,
      congrArg (· ++ [0]) hdrawing.responses, fun a => congrArg (Mem.read .flash · a) hdrawing.mem, hdrawing.wel, hdrawing.pd,
      hdrawing.bad, hblit, hdrawing.outside, hdrawing.kept⟩
  · exact exec_misuse rfl (by rw [phaseAfter, phaseAfterFrames_eq, hphase]; rfl)

end Sys2Proof.Machine
end

section
/-! PROOFS. The data that the blitter reads (`20_memory.md` R56, R61, R71) and the pixels of one column (`43_blitter.md` R192 to
R195). -/

namespace Sys2Proof.Machine

/-! ## The data region -/

theorem Config.wf_flashBytes_space {cfg : Config} (h : cfg.wf = true) : cfg.flashBytes ∣ 2 ^ 24 := by
  simp only [Config.wf, Bool.and_eq_true] at h
  obtain ⟨⟨⟨⟨-, hflash⟩, -⟩, -⟩, -⟩ := h
  simp only [isPowerOfTwo, List.any_eq_true, List.mem_range, beq_iff_eq] at hflash
  obtain ⟨k, hk, hpower⟩ := hflash
  rw [hpower]
  exact pow_dvd_pow 2 (by omega)

/-- The physical address of an integer offset into the data region. -/
theorem translate_ofInt (page : Page) (o : Int) :
    translate page (BitVec.ofInt 24 o) = BitVec.ofInt 24 ((page.toNat : Int) * 256 + o) := by
  refine BitVec.eq_of_toNat_eq ?_
  rw [translate_toNat, BitVec.toNat_ofInt, BitVec.toNat_ofInt]
  omega

/-- A stream that was opened at an offset into the data region streams the data bytes from there on. -/
theorem streamByte_dataByte {s : State} (hcfg : s.cfg.wf = true) (o : Int) (j : Nat) :
    streamByte s.cfg s.flash.mem ((translate s.dataPage (BitVec.ofInt 24 o)).toNat + j) = s.dataByte (o + j) := by
  have hplace : ((((translate s.dataPage (BitVec.ofInt 24 o)).toNat + j : Nat) : Int)) ≡
      (s.dataPage.toNat : Int) * 256 + (o + j) [ZMOD s.cfg.flashBytes] := by
    have hspace : ((translate s.dataPage (BitVec.ofInt 24 o)).toNat : Int) ≡ (s.dataPage.toNat : Int) * 256 + o
        [ZMOD (2 ^ 24 : Nat)] := by
      rw [translate_ofInt, BitVec.toNat_ofInt, Int.toNat_of_nonneg (Int.emod_nonneg _ (by decide))]
      exact Int.mod_modEq _ _
    have hflash := (hspace.of_dvd (Int.natCast_dvd_natCast.mpr (Config.wf_flashBytes_space hcfg))).add_right (j : Int)
    rwa [add_assoc, ← Nat.cast_add] at hflash
  rw [streamByte, State.dataByte, ← hplace.eq]
  rfl

/-- What the data bytes depend on. -/
theorem Drawing.dataByte {s t : State} (h : Drawing s t) : t.dataByte = s.dataByte := by
  obtain ⟨hpage, -⟩ := h.kept
  have hpage' : t.dataPage = s.dataPage := hpage
  funext o
  rw [State.dataByte, State.dataByte, hpage', h.mem, h.cfg]

theorem Drawing.readFrame {s t : State} (h : Drawing s t) : t.readFrame = s.readFrame := by
  obtain ⟨hpage, -⟩ := h.kept
  have hpage' : t.dataPage = s.dataPage := hpage
  funext o n
  rw [State.readFrame, State.readFrame, hpage', h.dataByte]

/-- The integers that a count stands for. -/
theorem range_toInt (n : Nat) : (do let a ← List.range n; pure (a : Int)) = (List.range n).map (Nat.cast : Nat → Int) := by
  simp only [bind_pure_comp, List.map_eq_map]

theorem State.readFrame_eq (s : State) (o : Int) (n : Nat) :
    s.readFrame o n = (WireOp.read :: wireAddr (translate s.dataPage (BitVec.ofInt 24 o))).map Event.unanswered ++
      (List.range n).map (fun k : Nat => Event.xfer dummyByte (s.dataByte (o + k)) false) ++ [.desel] := by
  rw [State.readFrame, range_toInt, List.map_map, translate_ofInt]
  rfl

/-- The events of a whole frame of a stream, after its `S`. -/
theorem readFrame_eq {s : State} (hcfg : s.cfg.wf = true) (o : Int) (n : Nat) :
    s.readFrame o (n + 1) = (WireOp.read :: wireAddr (translate s.dataPage (BitVec.ofInt 24 o))).map Event.unanswered ++
      [streamEvent s.cfg s.flash.mem (translate s.dataPage (BitVec.ofInt 24 o)).toNat] ++
      (List.range n).map (fun j =>
        streamEvent s.cfg s.flash.mem ((translate s.dataPage (BitVec.ofInt 24 o)).toNat + (1 + j))) ++ [.desel] := by
  have hbyte : ∀ j : Nat, streamEvent s.cfg s.flash.mem ((translate s.dataPage (BitVec.ofInt 24 o)).toNat + j) =
      .xfer dummyByte (s.dataByte (o + j)) false := fun j => by rw [streamEvent, streamByte_dataByte hcfg]
  have hzero := hbyte 0
  rw [Nat.add_zero] at hzero
  rw [State.readFrame_eq, map_range_succ, hzero]
  simp only [hbyte, List.append_assoc, List.cons_append, List.nil_append]

/-! ## The pixels of a column -/

/-- A pixel after `Compose` with the bitmap's bit and the mask's bit (`43_blitter.md` R195). -/
def composeBit (mode : Byte) (bit mask old : Bool) : Bool :=
  if mask then (if modeInvert mode then bit ^^ old else bit) else old

theorem compose_getLsbD (mode b m e : Byte) {k : Nat} (hk : k < 8) :
    (compose mode b m e).getLsbD k = composeBit mode (b.getLsbD k) (m.getLsbD k) (e.getLsbD k) :=
  composeTruthTable mode b m e k hk

theorem composeBit_unmasked (mode : Byte) (bit old : Bool) : composeBit mode bit false old = old := rfl

theorem shiftLo_getLsbD (v : Byte) {shift k : Nat} (hshift : shift < 8) (hk : k < 8) :
    (shiftLo v shift).getLsbD k = (decide (shift ≤ k) && v.getLsbD (k - shift)) := by
  have hbit := shiftSpansTwoRows v shift k (by omega) (by omega)
  rwa [if_pos hk] at hbit

theorem shiftHi_getLsbD (v : Byte) {shift k : Nat} (hshift : shift < 8) (hk : k < 8) :
    (shiftHi v shift).getLsbD k = v.getLsbD (k + 8 - shift) := by
  have hbit := shiftSpansTwoRows v shift (k + 8) (by omega) (by omega)
  rw [if_neg (by omega), Nat.add_sub_cancel, decide_eq_true (by omega), Bool.true_and] at hbit
  exact hbit

section
variable {s : State} {b : Blit} {c px py : Nat} (hcol : 0 ≤ b.col0) (hpx : px < s.cfg.displayW)
  (hc : b.col0 + c < s.cfg.displayW)
include hcol hpx hc

/-- Which framebuffer byte of an existing display row is that of a pixel. -/
theorem fbIndex_eq_iff {r : Int} (hr : 0 ≤ r) :
    py / 8 * s.cfg.displayW + px = fbIndex s.cfg b r c ↔ ((py / 8 : Nat) : Int) = r ∧ (px : Int) = b.col0 + c := by
  obtain ⟨row, rfl⟩ := Int.eq_ofNat_of_zero_le hr
  obtain ⟨col, hcol'⟩ := Int.eq_ofNat_of_zero_le hcol
  have hplace : col + c < s.cfg.displayW := by omega
  have hindex : fbIndex s.cfg b row c = row * s.cfg.displayW + (col + c) := by
    rw [fbIndex, hcol', ← Nat.cast_mul, ← Nat.cast_add, ← Nat.cast_add, Int.toNat_natCast, Nat.add_assoc]
  rw [hindex]
  constructor
  · intro h
    have hpos : 0 < s.cfg.displayW := by omega
    have hquot : py / 8 = row := by
      have := congrArg (· / s.cfg.displayW) h
      simpa only [Nat.add_comm (_ * _), Nat.add_mul_div_right _ _ hpos, Nat.div_eq_of_lt hpx, Nat.div_eq_of_lt hplace,
        Nat.zero_add] using this
    subst hquot
    omega
  · rintro ⟨hrow, hcolumn⟩
    have hrow' : py / 8 = row := by omega
    rw [hrow']
    omega

/-- A pixel after one framebuffer byte was composed. -/
theorem composeAt_pixel (mode : Byte) {r : Int} (hr : 0 ≤ r) (v m : Byte) :
    (composeAt mode (fbIndex s.cfg b r c) v m s).pixel px py =
      if ((py / 8 : Nat) : Int) = r ∧ (px : Int) = b.col0 + c then
        composeBit mode (v.getLsbD (py % 8)) (m.getLsbD (py % 8)) (s.pixel px py)
      else s.pixel px py := by
  have hcfg : (composeAt mode (fbIndex s.cfg b r c) v m s).cfg = s.cfg := rfl
  rw [State.pixel, hcfg, composeAt_read]
  by_cases h : ((py / 8 : Nat) : Int) = r ∧ (px : Int) = b.col0 + c
  · have hindex := (fbIndex_eq_iff hcol hpx hc hr).mpr h
    rw [if_pos h, if_pos hindex, compose_getLsbD _ _ _ _ (Nat.mod_lt _ (by decide)), ← hindex]
    rfl
  · rw [if_neg h, if_neg (mt (fbIndex_eq_iff hcol hpx hc hr).mp h)]
    rfl

/-- A pixel after one framebuffer byte was composed, or left where the mask has no bit for the pixel. -/
theorem composeWhere_pixel (mode : Byte) {r : Int} {p : Prop} [Decidable p] (v m : Byte) (hr : p → 0 ≤ r)
    (hskip : ¬ p → ((py / 8 : Nat) : Int) = r → m.getLsbD (py % 8) = false) :
    (if p then composeAt mode (fbIndex s.cfg b r c) v m s else s).pixel px py =
      if ((py / 8 : Nat) : Int) = r ∧ (px : Int) = b.col0 + c then
        composeBit mode (v.getLsbD (py % 8)) (m.getLsbD (py % 8)) (s.pixel px py)
      else s.pixel px py := by
  by_cases hp : p
  · rw [if_pos hp, composeAt_pixel hcol hpx hc mode (hr hp)]
  · rw [if_neg hp]
    split
    · rename_i hrow
      rw [hskip hp hrow.1, composeBit_unmasked]
    · rfl

/-- A pixel after the two bytes of a column, the primary one and the spill. -/
theorem composeColumn_bytes (mode : Byte) (v m : Byte) (hshift : b.shift < 8) (hheight : s.cfg.displayH % 8 = 0)
    (hpy : py < s.cfg.displayH) :
    (composeColumn b mode c v m s).pixel px py =
      if ((py / 8 : Nat) : Int) = b.drow + 1 ∧ (px : Int) = b.col0 + c then
        composeBit mode ((shiftHi v b.shift).getLsbD (py % 8)) ((shiftHi m b.shift).getLsbD (py % 8)) (s.pixel px py)
      else if ((py / 8 : Nat) : Int) = b.drow ∧ (px : Int) = b.col0 + c then
        composeBit mode ((shiftLo v b.shift).getLsbD (py % 8)) ((shiftLo m b.shift).getLsbD (py % 8)) (s.pixel px py)
      else s.pixel px py := by
  have hexists : ∀ r : Int, ((py / 8 : Nat) : Int) = r → rowExists s.cfg r = true := by
    rintro r rfl
    simp only [rowExists, Bool.and_eq_true, decide_eq_true_eq]
    omega
  have hnonneg : ∀ r : Int, rowExists s.cfg r = true → 0 ≤ r := by
    intro r hr
    simp only [rowExists, Bool.and_eq_true, decide_eq_true_eq] at hr
    exact hr.1
  have hprimary := composeWhere_pixel hcol hpx hc mode (py := py) (shiftLo v b.shift) (shiftLo m b.shift)
    (hnonneg b.drow) fun hno hrow => absurd (hexists _ hrow) hno
  have hsame : (if rowExists s.cfg b.drow = true then
      composeAt mode (fbIndex s.cfg b b.drow c) (shiftLo v b.shift) (shiftLo m b.shift) s else s).cfg = s.cfg := by
    split <;> rfl
  unfold composeColumn
  dsimp only
  generalize (if rowExists s.cfg b.drow = true then
    composeAt mode (fbIndex s.cfg b b.drow c) (shiftLo v b.shift) (shiftLo m b.shift) s else s) = s1 at hprimary hsame ⊢
  have hspill := composeWhere_pixel (s := s1) (b := b) (c := c) (px := px) (py := py) (r := b.drow + 1) hcol
    (by rw [hsame]; exact hpx) (by rw [hsame]; exact hc) mode
    (p := b.shift ≠ 0 ∧ rowExists s.cfg (b.drow + 1) = true) (shiftHi v b.shift) (shiftHi m b.shift)
    (fun h => hnonneg _ h.2) fun hno hrow => by
      have hzero : b.shift = 0 := by
        by_contra hne
        exact hno ⟨hne, hexists _ hrow⟩
      rw [shiftHi_getLsbD m hshift (Nat.mod_lt _ (by decide)), hzero]
      exact BitVec.getLsbD_of_ge _ _ (by omega)
  rw [hsame] at hspill
  rw [hspill, hprimary]
  split
  · rw [if_neg (by omega)]
  · rfl

/-- A pixel after a column: where the column's eight pixels lie, the byte's bits under the mask's, elsewhere the old pixel; so
the shift and the two rows draw exactly the column (`43_blitter.md` R194, R195). -/
theorem composeColumn_pixel (mode : Byte) (v m : Byte) (hshift : b.shift < 8) (hheight : s.cfg.displayH % 8 = 0)
    (hpy : py < s.cfg.displayH) :
    (composeColumn b mode c v m s).pixel px py =
      if (px : Int) = b.col0 + c ∧ 8 * b.drow + b.shift ≤ py ∧ py < 8 * b.drow + b.shift + 8 then
        composeBit mode (v.getLsbD (py - (8 * b.drow + b.shift)).toNat) (m.getLsbD (py - (8 * b.drow + b.shift)).toNat)
          (s.pixel px py)
      else s.pixel px py := by
  have hk : py % 8 < 8 := Nat.mod_lt _ (by decide)
  rw [composeColumn_bytes hcol hpx hc mode v m hshift hheight hpy, shiftLo_getLsbD v hshift hk, shiftLo_getLsbD m hshift hk,
    shiftHi_getLsbD v hshift hk, shiftHi_getLsbD m hshift hk]
  by_cases hcolumn : (px : Int) = b.col0 + c
  · simp only [hcolumn, and_true, true_and]
    by_cases hhigh : ((py / 8 : Nat) : Int) = b.drow + 1
    · rw [if_pos hhigh]
      by_cases hin : py % 8 < b.shift
      · have hbit : (py - (8 * b.drow + b.shift) : Int).toNat = py % 8 + 8 - b.shift := by omega
        rw [if_pos (by omega), hbit]
      · rw [if_neg (by omega), BitVec.getLsbD_of_ge m _ (by omega), composeBit_unmasked]
    · rw [if_neg hhigh]
      by_cases hlow : ((py / 8 : Nat) : Int) = b.drow
      · rw [if_pos hlow]
        by_cases hin : b.shift ≤ py % 8
        · have hbit : (py - (8 * b.drow + b.shift) : Int).toNat = py % 8 - b.shift := by omega
          rw [if_pos (by omega), hbit, decide_eq_true hin, Bool.true_and, Bool.true_and]
        · rw [if_neg (by omega), decide_eq_false hin, Bool.false_and, Bool.false_and, composeBit_unmasked]
      · rw [if_neg hlow, if_neg (by omega)]
  · simp only [hcolumn, and_false, false_and, if_false]

end

end Sys2Proof.Machine
end

section
/-! PROOFS. What the blitter draws and what it puts on the wire, with the part awake: the columns of a row, the row, the rows
(`43_blitter.md` R190 to R197). -/

namespace Sys2Proof.Machine

/-! ## Pixels drawn -/

/-- Inside the viewport the pixels of `t` are those of `s`, repainted by `f`. -/
def Painted (s t : State) (f : Nat → Nat → Bool → Bool) : Prop :=
  ∀ px py : Nat, px < s.cfg.displayW → py < s.cfg.displayH → t.pixel px py = f px py (s.pixel px py)

theorem Painted.trans {s t u : State} {f g : Nat → Nat → Bool → Bool} (h : Painted s t f) (hg : Painted t u g)
    (hcfg : t.cfg = s.cfg) : Painted s u fun px py old => g px py (f px py old) := by
  intro px py hpx hpy
  rw [hg px py (by rw [hcfg]; exact hpx) (by rw [hcfg]; exact hpy), h px py hpx hpy]

theorem Painted.of_same {s t : State} (hfb : t.fb = s.fb) (hcfg : t.cfg = s.cfg) : Painted s t fun _ _ old => old := by
  intro px py _ _
  rw [State.pixel, State.pixel, hfb, hcfg]

/-- A pixel after DRAWBITMAP drew it with the record's bytes (`43_blitter.md` R192, R193, R195). -/
def drawnPixel (mode row p mp : Byte) (q : Nat) (old : Bool) : Bool :=
  composeBit mode ((pixelByte mode p).getLsbD q) ((effectiveMask mode p mp row).getLsbD q) old

/-- The display line of the first pixel of the source row that is drawn. -/
def Blit.top (b : Blit) : Int := 8 * b.drow + b.shift

/-- The bytes of the record that one column takes (`43_blitter.md` R191). -/
def columnBytes (mode : Byte) : Nat := if modeMasked mode then 2 else 1

/-- The pixels of `count` columns from column `c` on; `byte` are the record's bytes from there on. -/
def Blit.paintColumns (b : Blit) (mode row : Byte) (byte : Nat → Byte) (c count : Nat) (px py : Nat) (old : Bool) : Bool :=
  if b.col0 + c ≤ px ∧ px < b.col0 + c + count ∧ b.top ≤ py ∧ py < b.top + 8 then
    drawnPixel mode row (byte (columnBytes mode * (px - (b.col0 + c)).toNat))
      (byte (columnBytes mode * (px - (b.col0 + c)).toNat + 1)) (py - b.top).toNat old
  else old

/-- What a blit needs to draw in its viewport. -/
structure Blit.Drawable (cfg : Config) (b : Blit) : Prop where
  inViewport : b.inViewport cfg
  shift : b.shift < 8
  height : cfg.displayH % 8 = 0

/-! ## The columns of a row -/

section
variable {cfg : Config} {m : Mem} {a : Nat} {s : State} {b : Blit}

/-- One column of a stream. -/
theorem Streaming.drawColumn_run (h : Streaming cfg m a s) (hcfg : cfg.wf = true) (mode row : Byte) {c : Nat}
    (hb : b.Drawable cfg) (hc : (c : Int) < b.renderW) :
    ∃ t, drawColumn b mode row c s = .ok () t ∧ Streaming cfg m (a + columnBytes mode) t ∧
      t.wire = s.wire ++ (List.range (columnBytes mode)).map (fun j => streamEvent cfg m (a + (1 + j))) ∧
      Painted s t (b.paintColumns mode row (fun j => streamByte cfg m (a + j)) c 1) := by
  obtain ⟨t, hpixel, tbyte, tstream, twire⟩ := h.readPending_run hcfg
  have hmask : ∃ mp u, fetchMask mode t = .ok mp u ∧ Streaming cfg m (a + columnBytes mode) u ∧ u.fb = t.fb ∧
      u.wire = s.wire ++ (List.range (columnBytes mode)).map (fun j => streamEvent cfg m (a + (1 + j))) ∧
      effectiveMask mode (streamByte cfg m a) mp row =
        effectiveMask mode (streamByte cfg m a) (streamByte cfg m (a + 1)) row := by
    rw [fetchMask, columnBytes]
    cases hmasked : modeMasked mode with
    | true =>
      obtain ⟨u, hfetch, ubyte, ustream, uwire⟩ := tstream.readPending_run hcfg
      refine ⟨_, u, hfetch, ustream, State.kept_fb ubyte.kept, ?_, rfl⟩
      rw [uwire, twire, List.append_assoc]
      rfl
    | false => exact ⟨0, t, rfl, tstream, rfl, twire, by simp [effectiveMask, hmasked]⟩
  obtain ⟨mp, u, hfetch, ustream, ufb, uwire, heffective⟩ := hmask
  refine ⟨_, by rw [drawColumn, hpixel, Res.bind_ok, hfetch, Res.bind_ok], ?_, ?_, fun px py hpx hpy => ?_⟩
  · rw [composeColumn_same]
    exact ustream.congr rfl rfl rfl rfl rfl rfl rfl rfl
  · rw [composeColumn_same]
    exact uwire
  · have hsame : u.cfg = s.cfg := ustream.cfg_eq.trans h.cfg_eq.symm
    have hfb : u.fb = s.fb := ufb.trans (State.kept_fb tbyte.kept)
    have hold : u.pixel px py = s.pixel px py := by rw [State.pixel, State.pixel, hfb, hsame]
    obtain ⟨⟨hcol, hcolumns⟩, hshift, hheight⟩ := hb
    rw [composeColumn_pixel hcol (by rw [hsame]; exact hpx) (by rw [ustream.cfg_eq]; exact hcolumns c hc) mode _ _ hshift
      (by rw [ustream.cfg_eq]; exact hheight) (by rw [hsame]; exact hpy), hold, heffective, Blit.paintColumns, Blit.top]
    by_cases hin : (px : Int) = b.col0 + c ∧ 8 * b.drow + b.shift ≤ py ∧ py < 8 * b.drow + b.shift + 8
    · have hfirst : (px - (b.col0 + c) : Int).toNat = 0 := by omega
      rw [if_pos hin, if_pos (by omega), hfirst]
      rfl
    · rw [if_neg hin, if_neg (by omega)]

/-- The columns from `c` on, by the first and the rest. -/
theorem Blit.paintColumns_succ (mode row : Byte) (byte : Nat → Byte) (c count px py : Nat) (old : Bool) :
    b.paintColumns mode row (fun j => byte (columnBytes mode + j)) (c + 1) count px py
        (b.paintColumns mode row byte c 1 px py old) =
      b.paintColumns mode row byte c (count + 1) px py old := by
  simp only [Blit.paintColumns]
  by_cases hfirst : (px : Int) = b.col0 + c
  · rw [if_neg (by omega)]
    exact if_congr (by omega) rfl rfl
  · have hrest : ¬ (b.col0 + (c : Int) ≤ px ∧ (px : Int) < b.col0 + c + (1 : Nat) ∧ b.top ≤ py ∧ (py : Int) < b.top + 8) := by
      omega
    rw [if_neg hrest]
    by_cases hin : b.col0 + ((c + 1 : Nat) : Int) ≤ px ∧ (px : Int) < b.col0 + ((c + 1 : Nat) : Int) + count ∧ b.top ≤ py ∧
        (py : Int) < b.top + 8
    · have hplace : columnBytes mode + columnBytes mode * (px - (b.col0 + ((c + 1 : Nat) : Int))).toNat =
          columnBytes mode * (px - (b.col0 + c) : Int).toNat := by
        rw [Nat.add_comm, ← Nat.mul_succ]
        congr 1
        omega
      rw [if_pos hin, if_pos (by omega), ← hplace, Nat.add_assoc]
    · rw [if_neg hin, if_neg (by omega)]

/-- `count` columns of a stream. -/
theorem Streaming.drawColumns_run (count c : Nat) (h : Streaming cfg m a s) (hcfg : cfg.wf = true) (mode row : Byte)
    (hb : b.Drawable cfg) (hc : c + count ≤ b.renderW.toNat) :
    ∃ t, drawColumns b mode row count c s = .ok () t ∧ Streaming cfg m (a + columnBytes mode * count) t ∧
      t.wire = s.wire ++ (List.range (columnBytes mode * count)).map (fun j => streamEvent cfg m (a + (1 + j))) ∧
      Painted s t (b.paintColumns mode row (fun j => streamByte cfg m (a + j)) c count) := by
  induction count generalizing c a s with
  | zero =>
    refine ⟨s, rfl, h, by simp, fun px py _ _ => ?_⟩
    rw [Blit.paintColumns, if_neg (by omega)]
  | succ k ih =>
    obtain ⟨t, hcolumn, tstream, twire, tpainted⟩ := h.drawColumn_run hcfg mode row (c := c) hb (by omega)
    obtain ⟨u, hrest, ustream, uwire, upainted⟩ := ih (c + 1) tstream (by omega)
    have hlength : columnBytes mode * (k + 1) = columnBytes mode + columnBytes mode * k := by
      rw [Nat.mul_succ, Nat.add_comm]
    refine ⟨u, by rw [drawColumns, hcolumn, Res.bind_ok, hrest], ?_, ?_, fun px py hpx hpy => ?_⟩
    · rw [hlength, ← Nat.add_assoc]
      exact ustream
    · rw [uwire, twire, hlength, List.range_add, List.map_append, List.map_map, List.append_assoc]
      congr 2
      refine List.map_congr_left fun j _ => ?_
      rw [Function.comp_apply]
      congr 1
      omega
    · rw [tpainted.trans upainted (tstream.cfg_eq.trans h.cfg_eq.symm) px py hpx hpy]
      simp only [Nat.add_assoc]
      exact Blit.paintColumns_succ mode row (fun j => streamByte cfg m (a + j)) c k px py _

end

/-! ## A row -/

/-- The blitter can begin a read frame on an awake part that heeds it. -/
structure Ready (s : State) : Prop where
  canBegin : s.canBegin = true
  inited : s.inited = true
  wf : s.cfg.wf = true
  bad : s.flash.bad = false
  pd : s.flash.pd = false

theorem Ready.drawn {s t : State} (h : Ready s) (hdrawing : Drawing s t) (hbetween : BetweenReads t) : Ready t :=
  ⟨hbetween.canBegin, hdrawing.inited.trans h.inited, by rw [hdrawing.cfg]; exact h.wf, hdrawing.bad.trans h.bad,
    hdrawing.pd.trans h.pd⟩

section
variable {s : State} {b : Blit} (h : Ready s)
include h

/-- A seek to an offset into the data region streams the data from there. -/
theorem Ready.seekData_run (o : Int) :
    ∃ t, seekData (BitVec.ofInt 24 o) s = .ok () t ∧
      Streaming s.cfg s.flash.mem (translate s.dataPage (BitVec.ofInt 24 o)).toNat t ∧
      t.wire = s.wire ++ s.opening ++ (WireOp.read :: wireAddr (translate s.dataPage (BitVec.ofInt 24 o))).map Event.unanswered ++
        [streamEvent s.cfg s.flash.mem (translate s.dataPage (BitVec.ofInt 24 o)).toNat] ∧ t.fb = s.fb := by
  obtain ⟨-, hphase, -⟩ := canBegin_parts h.canBegin
  obtain ⟨t, hrun, hread⟩ := beginRead_run (translate s.dataPage (BitVec.ofInt 24 o)) s h.canBegin
  exact ⟨t, by rw [seekData, require_of hphase, Res.bind_ok, toDataAddress_inited _ h.inited, Res.bind_ok, hrun],
    hread.streaming h.wf h.canBegin h.bad h.pd, hread.wire_eq h.wf h.canBegin h.bad h.pd, State.kept_fb hread.kept⟩

/-- One source row: its frame, and its pixels. -/
theorem Ready.drawRow_run (mode : Byte) (i : Nat) {o : Int} (hb : b.Drawable s.cfg) (hsrc : b.src = BitVec.ofInt 24 o) :
    ∃ t, drawRow mode i b s = .ok () t ∧ Drawing s t ∧ BetweenReads t ∧
      t.wire = s.wire ++ s.opening ++ s.readFrame o (columnBytes mode * b.renderW.toNat + 1) ∧
      Painted s t (b.paintColumns mode (rowMask b (b.skipTop + i)) (fun j => s.dataByte (o + j)) 0 b.renderW.toNat) := by
  have hblit : Ready (s.withBlit (some b)) := ⟨h.canBegin, h.inited, h.wf, h.bad, h.pd⟩
  obtain ⟨t, hseek, tstream, twire, tfb⟩ := hblit.seekData_run o
  obtain ⟨u, hcolumns, ustream, uwire, upainted⟩ := tstream.drawColumns_run b.renderW.toNat 0 h.wf mode
    (rowMask b (b.skipTop + i)) hb (Nat.zero_add _).le
  obtain ⟨v, hlast, hend, -⟩ := ustream.readLast_run h.wf
  have hrun : drawRow mode i b s = .ok () v := by
    rw [drawRow, hsrc, hseek, Res.bind_ok, hcolumns, Res.bind_ok, hlast, Res.bind_ok]
  obtain ⟨v', hrun', hdrawing, hbetween⟩ := Machine.drawRow_run mode i h.canBegin h.inited (Config.wf_opWrite_ne_read h.wf)
    hb.inViewport
  cases hrun.symm.trans hrun'
  refine ⟨v, hrun, hdrawing, hbetween, ?_, fun px py hpx hpy => ?_⟩
  · rw [hend.wire, uwire, twire, readFrame_eq h.wf]
    simp only [List.append_assoc]
    rfl
  · have hvfb : v.pixel px py = u.pixel px py := by
      rw [State.pixel, State.pixel, State.kept_fb hend.kept, State.kept_cfg hend.kept]
    have hsfb : t.pixel px py = s.pixel px py := by
      rw [State.pixel, State.pixel, tfb, tstream.cfg_eq]
      rfl
    have hdata : (fun j => streamByte s.cfg s.flash.mem ((translate s.dataPage (BitVec.ofInt 24 o)).toNat + j)) =
        fun j : Nat => s.dataByte (o + j) := funext fun j => streamByte_dataByte h.wf o j
    have hpixel := upainted px py (by rw [tstream.cfg_eq]; exact hpx) (by rw [tstream.cfg_eq]; exact hpy)
    rw [hvfb, hpixel, hsfb]
    exact congrArg (fun byte => b.paintColumns mode _ byte 0 b.renderW.toNat px py (s.pixel px py)) hdata

end

/-! ## The rows -/

/-- The pixels of `count` source rows from row `i` on, whose record bytes start at `o`. -/
def Blit.paintRows (b : Blit) (mode : Byte) (data : Int → Byte) (o : Int) (i count : Nat) (px py : Nat) (old : Bool) : Bool :=
  let place : Int := o + (py - b.top) / 8 * b.stride + columnBytes mode * (px - b.col0).toNat
  if b.col0 ≤ px ∧ px < b.col0 + b.renderW.toNat ∧ b.top ≤ py ∧ py < b.top + 8 * count then
    drawnPixel mode (rowMask b (b.skipTop + i + (py - b.top) / 8)) (data place) (data (place + 1)) ((py - b.top) % 8).toNat old
  else old

theorem Blit.top_nextRow (b : Blit) : (nextRow b).top = b.top + 8 := by
  simp only [Blit.top, nextRow]
  ring

/-- The rows from `i` on, by the first and the rest. -/
theorem Blit.paintRows_succ (b : Blit) (mode : Byte) (data : Int → Byte) (o : Int) (i count px py : Nat) (old : Bool) :
    (nextRow b).paintRows mode data (o + b.stride) (i + 1) count px py
        (b.paintColumns mode (rowMask b (b.skipTop + i)) (fun j => data (o + j)) 0 b.renderW.toNat px py old) =
      b.paintRows mode data o i (count + 1) px py old := by
  have hmask : ∀ r, rowMask (nextRow b) r = rowMask b r := fun _ => rfl
  have hsame : (nextRow b).col0 = b.col0 ∧ (nextRow b).renderW = b.renderW ∧ (nextRow b).skipTop = b.skipTop ∧
      (nextRow b).stride = b.stride := ⟨rfl, rfl, rfl, rfl⟩
  obtain ⟨hcol0, hrenderW, hskipTop, hstride⟩ := hsame
  simp only [Blit.paintRows, Blit.top_nextRow, hmask, hcol0, hrenderW, hskipTop, hstride]
  by_cases hfirst : (b.col0 ≤ px ∧ (px : Int) < b.col0 + b.renderW.toNat) ∧ b.top ≤ py ∧ (py : Int) < b.top + 8
  · have hrow : (py - b.top) / 8 = 0 := by omega
    have hline : (py - b.top) % 8 = py - b.top := by omega
    rw [if_neg (by omega), if_pos (by omega), hrow, hline, Blit.paintColumns, if_pos (by omega)]
    simp only [Nat.cast_zero, add_zero, zero_mul, Nat.cast_mul, Nat.cast_add, Nat.cast_one, add_assoc]
  · rw [Blit.paintColumns, if_neg (c := b.col0 + ((0 : Nat) : Int) ≤ px ∧ _) (by omega)]
    by_cases hrest : (b.col0 ≤ px ∧ (px : Int) < b.col0 + b.renderW.toNat) ∧ b.top + 8 ≤ py ∧
        (py : Int) < b.top + 8 + 8 * count
    · have hrow : (py - b.top) / 8 = (py - (b.top + 8)) / 8 + 1 := by omega
      have hline : (py - b.top) % 8 = (py - (b.top + 8)) % 8 := by omega
      have hplace : o + b.stride + (py - (b.top + 8)) / 8 * b.stride = o + ((py - (b.top + 8)) / 8 + 1) * b.stride := by ring
      have hnumber : b.skipTop + ((i + 1 : Nat) : Int) + (py - (b.top + 8)) / 8 =
          b.skipTop + i + ((py - (b.top + 8)) / 8 + 1) := by push_cast; ring
      rw [if_pos (by omega), if_pos (by omega), hrow, hline, hplace, hnumber]
    · rw [if_neg (by omega), if_neg (by omega)]

/-- The source rows from row `i` on: a frame for each, and their pixels. -/
theorem Ready.drawRows_run (count i : Nat) {s : State} {b : Blit} (h : Ready s) (hclosed : s.closed = true) (mode : Byte)
    {o : Int} (hb : b.Drawable s.cfg) (hsrc : b.src = BitVec.ofInt 24 o) :
    ∃ t, drawRows mode count i b s = .ok () t ∧ Drawing s t ∧
      t.wire = s.wire ++ (List.range count).flatMap (fun j : Nat =>
        .sel :: s.readFrame (o + j * b.stride) (columnBytes mode * b.renderW.toNat + 1)) ∧
      Painted s t (b.paintRows mode s.dataByte o i count) := by
  induction count generalizing i b s o with
  | zero =>
    refine ⟨s, rfl, Drawing.refl s, by simp, fun px py _ _ => ?_⟩
    rw [Blit.paintRows, if_neg (by omega)]
  | succ k ih =>
    obtain ⟨t, hrow, drow, tbetween, twire, tpainted⟩ := h.drawRow_run mode i hb hsrc
    obtain ⟨u, hrest, drest, uwire, upainted⟩ := ih (i + 1) (h.drawn drow tbetween) tbetween.closed (b := nextRow b)
      (o := o + b.stride) ⟨drow.cfg.symm ▸ hb.inViewport, hb.shift, drow.cfg.symm ▸ hb.height⟩
      (by rw [nextRow, hsrc, ← BitVec.ofInt_add])
    have hopening : s.opening = [.sel] := by
      simp only [State.closed, Bool.and_eq_true, Bool.not_eq_true'] at hclosed
      rw [State.opening, hclosed.1.1]
      rfl
    refine ⟨u, by rw [drawRows, hrow, Res.bind_ok, hrest], drow.trans drest, ?_, fun px py hpx hpy => ?_⟩
    · rw [uwire, twire, hopening, drow.readFrame, List.range_succ_eq_map, List.flatMap_cons, List.flatMap_map]
      simp only [Nat.cast_zero, zero_mul, add_zero, List.append_assoc, List.cons_append, List.nil_append]
      congr 3
      refine List.flatMap_congr fun j _ => ?_
      have hoffset : o + b.stride + j * (nextRow b).stride = o + j.succ * b.stride := by
        rw [show (nextRow b).stride = b.stride from rfl]
        push_cast
        ring
      rw [hoffset]
      rfl
    · rw [tpainted.trans upainted drow.cfg px py hpx hpy, drow.dataByte]
      exact b.paintRows_succ mode s.dataByte o i k px py _

end Sys2Proof.Machine
end

section
/-! PROOFS. DRAWBITMAP as a whole, with the part awake: the header, the geometry, and then the wire events, the pixel law and
the double invert (`43_blitter.md` R182 to R198). -/

namespace Sys2Proof.Machine

/-! ## The header -/

theorem addr_ofInt (a : Addr) : a = BitVec.ofInt 24 (a.toNat : Int) := by
  rw [BitVec.ofInt_natCast, BitVec.ofNat_toNat, BitVec.setWidth_eq]

/-- The header frame, and the two fields that it reads (`43_blitter.md` R182). -/
theorem Ready.readHeader_run {s : State} (h : Ready s) (o : Int) :
    ∃ t, readHeader (BitVec.ofInt 24 o) s = .ok (s.headerField o, s.headerField (o + 2)) t ∧ Drawing s t ∧ BetweenReads t ∧
      t.wire = s.wire ++ s.opening ++ s.readFrame o 4 ∧ t.fb = s.fb := by
  obtain ⟨t, hseek, tstream, twire, tfb⟩ := h.seekData_run o
  obtain ⟨u, hfirst, ubyte, ustream, uwire⟩ := tstream.readPending_run h.wf
  obtain ⟨v, hsecond, vbyte, vstream, vwire⟩ := ustream.readPending_run h.wf
  obtain ⟨w, hthird, wbyte, wstream, wwire⟩ := vstream.readPending_run h.wf
  obtain ⟨x, hfourth, hend, -⟩ := wstream.readLast_run h.wf
  have hbyte := streamByte_dataByte (s := s) h.wf o
  have hrun : readHeader (BitVec.ofInt 24 o) s = .ok (s.headerField o, s.headerField (o + 2)) x := by
    have hbyte0 := hbyte 0
    have hbyte1 := hbyte 1
    have hbyte2 := hbyte 2
    have hbyte3 := hbyte 3
    have hlast : o + 2 + 1 = o + ((3 : Nat) : Int) := by omega
    rw [readHeader, hseek, Res.bind_ok, hfirst, Res.bind_ok, hsecond, Res.bind_ok, readLast16, hthird, Res.bind_ok, hfourth,
      State.headerField, State.headerField, hlast, ← hbyte3]
    simp only [Nat.cast_zero, Nat.cast_one, Nat.cast_ofNat, add_zero] at hbyte0 hbyte1 hbyte2
    rw [← hbyte0, ← hbyte1, ← hbyte2]
    rfl
  obtain ⟨size, x', hrun', hdrawing, hbetween⟩ := Machine.readHeader_run (BitVec.ofInt 24 o) h.canBegin h.inited
    (Config.wf_opWrite_ne_read h.wf)
  cases hrun.symm.trans hrun'
  refine ⟨x, hrun, hdrawing, hbetween, ?_, ?_⟩
  · rw [hend.wire, wwire, vwire, uwire, twire, readFrame_eq h.wf]
    simp only [List.append_assoc]
    rfl
  · rw [State.kept_fb hend.kept, State.kept_fb wbyte.kept, State.kept_fb vbyte.kept, State.kept_fb ubyte.kept, tfb]

/-! ## The geometry -/

theorem ceil8_eq (a : Int) : ceil8 a = (a + 7) / 8 := by
  rw [ceil8]
  omega

section
variable (cfg : Config) (x y bw bh : Int) (addr : Addr) (frame mode : Byte)

theorem offScreen_iff : offScreen cfg x y bw bh = true ↔
    x + bw ≤ 0 ∨ (cfg.displayW : Int) ≤ x ∨ y + bh ≤ 0 ∨ (cfg.displayH : Int) ≤ y := by
  simp [offScreen, or_assoc]

/-- The blit starts at the record byte of the first row and column that it draws (`43_blitter.md` R187). -/
theorem geometry_src : (geometry cfg x y bw bh addr frame (modeMasked mode)).src =
    BitVec.ofInt 24 (recordOffset addr frame (modeMasked mode) bw bh
      (geometry cfg x y bw bh addr frame (modeMasked mode)).skipTop
      (geometry cfg x y bw bh addr frame (modeMasked mode)).skipLeft) := by
  simp only [geometry, recordOffset, rowsPerFrame, ceil8_eq]

/-- The record byte of a row further down and a column further right. -/
theorem recordOffset_add (r c : Int) (j k : Int) :
    recordOffset addr frame (modeMasked mode) bw bh r c + j * (geometry cfg x y bw bh addr frame (modeMasked mode)).stride +
        columnBytes mode * k =
      recordOffset addr frame (modeMasked mode) bw bh (r + j) (c + k) := by
  simp only [geometry, recordOffset, columnBytes]
  split <;> push_cast <;> ring

theorem geometry_drawable (hcfg : cfg.wf = true) : (geometry cfg x y bw bh addr frame (modeMasked mode)).Drawable cfg := by
  refine ⟨geometry_inViewport .., ?_, ?_⟩
  · simp only [geometry]
    omega
  · simp only [Config.wf, Bool.and_eq_true, decide_eq_true_eq] at hcfg
    obtain ⟨⟨⟨⟨⟨-, -, hheight⟩, -⟩, -⟩, -⟩, -⟩ := hcfg
    exact hheight

end

/-! ## The whole body -/

/-- The wire events of the rows of a blit. -/
def State.rowEvents (s : State) (b : Blit) (mode : Byte) (o : Int) : List Event :=
  (List.range b.rows.toNat).flatMap fun j : Nat =>
    .sel :: s.readFrame (o + j * b.stride) (columnBytes mode * b.renderW.toNat + 1)

/-- DRAWBITMAP's body on an awake part: the header, and unless the bounding box misses the viewport the rows. -/
theorem Ready.drawBitmap_run {s : State} (h : Ready s) (x y : Half) (addr : Addr) (frame mode : Byte) {bw bh : Int} {b : Blit}
    {o : Int} (hbw : bw = s.headerField addr.toNat) (hbh : bh = s.headerField (addr.toNat + 2))
    (hb : b = geometry s.cfg x.toInt y.toInt bw bh addr frame (modeMasked mode))
    (ho : o = recordOffset addr frame (modeMasked mode) bw bh b.skipTop b.skipLeft) :
    ∃ t, drawBitmap x y addr frame mode s = .ok () t ∧
      (offScreen s.cfg x.toInt y.toInt bw bh = true →
        t.wire = s.wire ++ s.opening ++ s.readFrame addr.toNat 4 ∧ Painted s t fun _ _ old => old) ∧
      (offScreen s.cfg x.toInt y.toInt bw bh = false →
        t.wire = s.wire ++ s.opening ++ s.readFrame addr.toNat 4 ++ s.rowEvents b mode o ∧
        Painted s t (b.paintRows mode s.dataByte o 0 b.rows.toNat)) := by
  obtain ⟨t, hheader, dheader, tbetween, twire, tfb⟩ := h.readHeader_run addr.toNat
  rw [← addr_ofInt, ← hbw, ← hbh] at hheader
  have hsame : Painted s t fun _ _ old => old := Painted.of_same tfb dheader.cfg
  have hbody : drawBitmap x y addr frame mode s =
      if offScreen s.cfg x.toInt y.toInt bw bh then .ok () t
      else (drawRows mode b.rows.toNat 0 b t).bind fun _ s => .ok () (s.withBlit none) := by
    rw [drawBitmap, hheader, Res.bind_ok, dheader.cfg, hb]
    rfl
  rw [hbody]
  cases hmiss : offScreen s.cfg x.toInt y.toInt bw bh with
  | true => exact ⟨t, rfl, fun _ => ⟨twire, hsame⟩, nofun⟩
  | false =>
    have hdrawable := geometry_drawable s.cfg x.toInt y.toInt bw bh addr frame mode h.wf
    have hsrc := geometry_src s.cfg x.toInt y.toInt bw bh addr frame mode
    rw [← hb] at hdrawable hsrc
    rw [← ho] at hsrc
    obtain ⟨u, hrows, drows, uwire, upainted⟩ := (h.drawn dheader tbetween).drawRows_run b.rows.toNat 0 tbetween.closed mode
      (dheader.cfg.symm ▸ hdrawable) hsrc
    rw [dheader.readFrame] at uwire
    rw [dheader.dataByte] at upainted
    refine ⟨u.withBlit none, by rw [if_neg (by decide), hrows, Res.bind_ok], nofun, fun _ => ⟨?_, fun px py hpx hpy => ?_⟩⟩
    · exact uwire.trans (congrArg (· ++ _) twire)
    · exact hsame.trans upainted dheader.cfg px py hpx hpy

end Sys2Proof.Machine
end

section
/-! PROOFS. The wire events of DRAWBITMAP, the law of its pixels, and the double invert (`43_blitter.md` R182 to R198;
`20_memory.md` R52, R56). -/

namespace Sys2Proof.Machine

/-- The body of a DRAWBITMAP that was given where a command can begin, on an awake part. -/
theorem Ready.exec_drawbitmap {s t : State} (h : Ready s) {x y : Half} {addr : Addr} {frame mode : Byte}
    (hrun : exec (.drawbitmap x y addr frame mode) s = .next t) :
    ∃ u, drawBitmap x y addr frame mode s = .ok () u ∧ t = u.respond 0 ∧ Drawing s u ∧ BetweenReads u := by
  obtain ⟨-, hphase, -⟩ := canBegin_parts h.canBegin
  obtain ⟨u, hbody, hdrawing, hbetween, -⟩ := Machine.drawBitmap_run x y addr frame mode h.canBegin h.inited
    (Config.wf_opWrite_ne_read h.wf)
  rw [exec_drawbitmap_ok hphase h.inited hbody] at hrun
  cases hrun
  exact ⟨u, hbody, rfl, hdrawing, hbetween⟩

/-! ## The wire -/

/-- The derived quantities of the geometry, as `State.drawEvents` writes them out. -/
theorem geometry_written (cfg : Config) (x y bw bh : Int) (addr : Addr) (frame mode : Byte) {b : Blit}
    (hb : b = geometry cfg x y bw bh addr frame (modeMasked mode)) :
    b.skipTop = (if y < 0 then -y / 8 else 0) ∧ b.skipLeft = (if x < 0 then -x else 0) ∧
      b.rows.toNat = ((min (y + bh) cfg.displayH - (y + 8 * if y < 0 then -y / 8 else 0) + 7) / 8).toNat ∧
      columnBytes mode * b.renderW.toNat =
        (if mode.getLsbD 4 = true then
            2 * min (bw - if x < 0 then -x else 0) (cfg.displayW - if x < 0 then 0 else x)
          else min (bw - if x < 0 then -x else 0) (cfg.displayW - if x < 0 then 0 else x)).toNat := by
  have hleft : max 0 (-x) = if x < 0 then -x else 0 := by split <;> omega
  have hcol : max x 0 = if x < 0 then 0 else x := by split <;> omega
  subst hb
  refine ⟨rfl, hleft, ?_, ?_⟩
  · simp only [geometry, ceil8_eq]
    omega
  · have hmode : modeMasked mode = mode.getLsbD 4 := rfl
    simp only [geometry, columnBytes, hmode, hleft, hcol]
    split <;> omega

/-- The events of the rows, with the geometry's formulas written out. -/
theorem drawEvents_eq (s : State) (x y : Half) (addr : Addr) (frame mode : Byte) {bw bh : Int} {b : Blit}
    (hbw : bw = s.headerField addr.toNat) (hbh : bh = s.headerField (addr.toNat + 2))
    (hb : b = geometry s.cfg x.toInt y.toInt bw bh addr frame (modeMasked mode)) :
    s.drawEvents x y addr frame mode =
      if offScreen s.cfg x.toInt y.toInt bw bh then s.readFrame addr.toNat 4
      else s.readFrame addr.toNat 4 ++
        s.rowEvents b mode (recordOffset addr frame (modeMasked mode) bw bh b.skipTop b.skipLeft) := by
  obtain ⟨hskipTop, hskipLeft, hrows, hbytes⟩ := geometry_written s.cfg x.toInt y.toInt bw bh addr frame mode hb
  have hrow : ∀ j : Nat, recordOffset addr frame (modeMasked mode) bw bh b.skipTop b.skipLeft + j * b.stride =
      recordOffset addr frame (modeMasked mode) bw bh (b.skipTop + j) b.skipLeft := fun j => by
    have hplace := recordOffset_add s.cfg x.toInt y.toInt bw bh addr frame mode b.skipTop b.skipLeft j 0
    rwa [← hb, Int.mul_zero, Int.add_zero, Int.add_zero] at hplace
  rw [State.drawEvents, ← hbw, ← hbh]
  dsimp only
  refine if_congr (offScreen_iff ..).symm rfl (congrArg (_ ++ ·) ?_)
  rw [State.rowEvents, range_toInt, List.flatMap_map]
  simp only [hrow]
  rw [hbytes, hrows, hskipTop, hskipLeft]
  rfl

/-- Settles O55. -/
theorem drawbitmapWireEvents : Obligations.DrawbitmapWireEvents := by
  intro x y addr frame mode s t hcfg hbegin hinited hbad hpd hrun
  have h : Ready s := ⟨hbegin, hinited, hcfg, hbad, hpd⟩
  obtain ⟨u, hbody, rfl, -, -⟩ := h.exec_drawbitmap hrun
  obtain ⟨u', hbody', hmissed, hdrawn⟩ := h.drawBitmap_run x y addr frame mode rfl rfl rfl rfl
  cases hbody.symm.trans hbody'
  rw [State.respond_wire, drawEvents_eq s x y addr frame mode rfl rfl rfl]
  cases hmiss : offScreen s.cfg x.toInt y.toInt (s.headerField addr.toNat) (s.headerField (addr.toNat + 2)) with
  | true => exact (hmissed hmiss).1
  | false =>
    rw [if_neg (by decide), ← List.append_assoc]
    exact (hdrawn hmiss).1

/-! ## The pixels -/

theorem selfByte_getLsbD (mode p : Byte) {k : Nat} (hk : k < 8) :
    (selfByte mode p).getLsbD k = (p.getLsbD k ^^ mode.getLsbD 3) := by
  have hmode : modeReverse mode = mode.getLsbD 3 := rfl
  have hones : (0xFF : Byte).getLsbD k = true := by
    rw [show (0xFF : Byte) = BitVec.allOnes 8 from rfl, BitVec.getLsbD_allOnes, decide_eq_true hk]
  rw [selfByte, hmode]
  cases mode.getLsbD 3 with
  | true => rw [if_pos rfl, BitVec.getLsbD_xor, hones]
  | false => rw [if_neg (by decide), Bool.xor_false]

theorem rowMask_getLsbD (b : Blit) (r : Int) {k : Nat} (hk : k < 8) :
    (rowMask b r).getLsbD k = if r = b.rpf - 1 ∧ b.bh % 8 ≠ 0 then b.bottom.getLsbD k else true := by
  rw [rowMask]
  split
  · rfl
  · rw [show (0xFF : Byte) = BitVec.allOnes 8 from rfl, BitVec.getLsbD_allOnes, decide_eq_true hk]

/-- A pixel drawn, by the bits of the record and the mode flags (`10_state.md` R28). -/
theorem drawnPixel_eq (mode row p mp : Byte) {k : Nat} (hk : k < 8) (old : Bool) :
    drawnPixel mode row p mp k old =
      if (if mode.getLsbD 4 then mp.getLsbD k
          else if mode.getLsbD 0 then (p.getLsbD k ^^ mode.getLsbD 3) else row.getLsbD k) then
        (if mode.getLsbD 1 then (((p.getLsbD k ^^ mode.getLsbD 3) && !mode.getLsbD 2) ^^ old)
          else ((p.getLsbD k ^^ mode.getLsbD 3) && !mode.getLsbD 2))
      else old := by
  have hbit : (pixelByte mode p).getLsbD k = ((p.getLsbD k ^^ mode.getLsbD 3) && !mode.getLsbD 2) := by
    have hmode : modeBlack mode = mode.getLsbD 2 := rfl
    rw [pixelByte, hmode]
    cases mode.getLsbD 2 with
    | true => simp
    | false => rw [if_neg (by decide), selfByte_getLsbD mode p hk, Bool.not_false, Bool.and_true]
  have hmask : (effectiveMask mode p mp row).getLsbD k = (if mode.getLsbD 4 then mp.getLsbD k
      else if mode.getLsbD 0 then (p.getLsbD k ^^ mode.getLsbD 3) else row.getLsbD k) := by
    have hmasked : modeMasked mode = mode.getLsbD 4 := rfl
    have hwhite : modeWhiteBlack mode = mode.getLsbD 0 := rfl
    rw [effectiveMask, hmasked, hwhite]
    cases mode.getLsbD 4 with
    | true => rfl
    | false =>
      cases mode.getLsbD 0 with
      | true => exact selfByte_getLsbD mode p hk
      | false => rfl
  rw [drawnPixel, composeBit, hbit, hmask]
  rfl

/-- The rows of the blit paint what the record layout says, where the bounding box meets the viewport. -/
theorem paintRows_eq (s : State) (x y : Half) (addr : Addr) (frame mode : Byte) {bw bh : Int} {b : Blit} {px py : Nat}
    (hbw : bw = s.headerField addr.toNat) (hbh : bh = s.headerField (addr.toNat + 2))
    (hb : b = geometry s.cfg x.toInt y.toInt bw bh addr frame (modeMasked mode))
    (hmeets : offScreen s.cfg x.toInt y.toInt bw bh = false) (hpx : px < s.cfg.displayW) (hpy : py < s.cfg.displayH) :
    b.paintRows mode s.dataByte (recordOffset addr frame (modeMasked mode) bw bh b.skipTop b.skipLeft) 0 b.rows.toNat px py
        (s.pixel px py) = s.pixelAfterDraw x y addr frame mode px py := by
  rw [← Bool.not_eq_true, offScreen_iff] at hmeets
  have htop : b.top = y.toInt + 8 * b.skipTop := by
    rw [hb]
    simp only [Blit.top, geometry]
    omega
  have hcover : (b.col0 ≤ px ∧ (px : Int) < b.col0 + b.renderW.toNat ∧ b.top ≤ py ∧ (py : Int) < b.top + 8 * b.rows.toNat) ↔
      (0 ≤ (px - x.toInt : Int) ∧ (px - x.toInt : Int) < bw ∧ y.toInt ≤ py ∧ 8 * ((py - y.toInt) / 8) < bh ∧
        0 < y.toInt + bh) := by
    rw [htop, hb]
    simp only [geometry, ceil8_eq]
    split <;> omega
  rw [State.pixelAfterDraw, ← hbw, ← hbh, Blit.paintRows]
  dsimp only
  by_cases hin : b.col0 ≤ px ∧ (px : Int) < b.col0 + b.renderW.toNat ∧ b.top ≤ py ∧ (py : Int) < b.top + 8 * b.rows.toNat
  · have hrow : b.skipTop + (py - b.top) / 8 = (py - y.toInt) / 8 := by omega
    have hline : (py - b.top) % 8 = (py - y.toInt) % 8 := by omega
    have hk : ((py - y.toInt : Int) % 8).toNat < 8 := by omega
    have hcolumn : b.skipLeft + (px - b.col0).toNat = px - x.toInt := by
      have hcol0 : b.col0 = max x.toInt 0 := by rw [hb]; rfl
      have hskipLeft : b.skipLeft = max 0 (-x.toInt) := by rw [hb]; rfl
      omega
    have hplace := recordOffset_add s.cfg x.toInt y.toInt bw bh addr frame mode b.skipTop b.skipLeft ((py - b.top) / 8)
      ((px - b.col0).toNat : Int)
    rw [← hb, hrow, hcolumn] at hplace
    have hlast : b.rpf = rowsPerFrame bh := by
      rw [hb]
      exact ceil8_eq bh
    have hsize : b.bh = bh ∧ b.bottom = bottomMask s.cfg.bottomMask bh := by
      rw [hb]
      exact ⟨rfl, rfl⟩
    rw [if_pos hin, if_pos (hcover.mp hin), hplace, hline, Nat.cast_zero, add_zero, hrow, drawnPixel_eq _ _ _ _ hk,
      rowMask_getLsbD _ _ hk, hlast, hsize.1, hsize.2]
    rfl
  · rw [if_neg hin, if_neg (mt hcover.mpr hin)]

/-- Where the bounding box misses the viewport the record covers no pixel of it. -/
theorem pixelAfterDraw_missed (s : State) (x y : Half) (addr : Addr) (frame mode : Byte) {px py : Nat}
    (hmissed : offScreen s.cfg x.toInt y.toInt (s.headerField addr.toNat) (s.headerField (addr.toNat + 2)) = true)
    (hpx : px < s.cfg.displayW) (hpy : py < s.cfg.displayH) :
    s.pixelAfterDraw x y addr frame mode px py = s.pixel px py := by
  rw [offScreen_iff] at hmissed
  rw [State.pixelAfterDraw]
  exact if_neg (by omega)

/-- The pixels of DRAWBITMAP's body are those of the law. -/
theorem Ready.drawBitmap_painted {s u : State} (h : Ready s) {x y : Half} {addr : Addr} {frame mode : Byte}
    (hbody : drawBitmap x y addr frame mode s = .ok () u) {px py : Nat} (hpx : px < s.cfg.displayW)
    (hpy : py < s.cfg.displayH) : u.pixel px py = s.pixelAfterDraw x y addr frame mode px py := by
  obtain ⟨u', hbody', hmissed, hdrawn⟩ := h.drawBitmap_run x y addr frame mode rfl rfl rfl rfl
  cases hbody.symm.trans hbody'
  cases hmiss : offScreen s.cfg x.toInt y.toInt (s.headerField addr.toNat) (s.headerField (addr.toNat + 2)) with
  | true => exact ((hmissed hmiss).2 px py hpx hpy).trans (pixelAfterDraw_missed s x y addr frame mode hmiss hpx hpy).symm
  | false => exact ((hdrawn hmiss).2 px py hpx hpy).trans (paintRows_eq s x y addr frame mode rfl rfl rfl hmiss hpx hpy)

/-- Settles O56: the body paints what the record layout says, and the response changes no pixel. -/
theorem drawbitmapPixelLaw : Obligations.DrawbitmapPixelLaw := by
  intro x y addr frame mode s t hcfg hbegin hinited hbad hpd hrun px py hpx hpy
  have h : Ready s := ⟨hbegin, hinited, hcfg, hbad, hpd⟩
  obtain ⟨u, hbody, rfl, -, -⟩ := h.exec_drawbitmap hrun
  exact h.drawBitmap_painted hbody hpx hpy

/-! ## The double invert -/

/-- A pixel that is covered and selected by the mask, inverted by the bitmap's bit. -/
def invertBit (covered selected : Prop) [Decidable covered] [Decidable selected] (bit old : Bool) : Bool :=
  if covered then (if selected then bit ^^ old else old) else old

theorem invertBit_twice (covered selected : Prop) [Decidable covered] [Decidable selected] (bit old : Bool) :
    invertBit covered selected bit (invertBit covered selected bit old) = old := by
  unfold invertBit
  by_cases hcovered : covered
  · by_cases hselected : selected
    · simp only [if_pos hcovered, if_pos hselected, ← Bool.xor_assoc, Bool.xor_self, Bool.false_xor]
    · simp only [if_pos hcovered, if_neg hselected]
  · simp only [if_neg hcovered]

/-- With invert the law of a pixel restores the pixel that it gave: it depends on what a bitmap in progress keeps. -/
theorem Drawing.pixelAfterDraw {s t : State} (h : Drawing s t) (x y : Half) (addr : Addr) (frame mode : Byte) (px py : Nat)
    (hinvert : mode.getLsbD 1 = true) (hpixel : t.pixel px py = s.pixelAfterDraw x y addr frame mode px py) :
    t.pixelAfterDraw x y addr frame mode px py = s.pixel px py := by
  have hfield : ∀ o, t.headerField o = s.headerField o := fun o => by rw [State.headerField, State.headerField, h.dataByte]
  rw [State.pixelAfterDraw] at hpixel ⊢
  simp only [hfield, h.dataByte, h.cfg, hinvert, if_true] at hpixel ⊢
  rw [hpixel]
  exact invertBit_twice _ _ _ _

/-- Two states with the same pixels in the viewport have the same bytes in FB (`20_memory.md` R52). -/
theorem read_fb_of_pixels {s t : State} (hcfg : t.cfg = s.cfg) (hwf : s.cfg.wf = true)
    (hpixels : ∀ px py, px < s.cfg.displayW → py < s.cfg.displayH → t.pixel px py = s.pixel px py) {a : Nat}
    (ha : a < s.cfg.fbBytes) : Mem.read .fb t.fb a = Mem.read .fb s.fb a := by
  refine BitVec.eq_of_getLsbD_eq fun k hk => ?_
  have hpos : 0 < s.cfg.displayW := by
    simp only [Config.wf, Bool.and_eq_true, decide_eq_true_eq] at hwf
    obtain ⟨⟨⟨⟨⟨⟨hwidth, -⟩, -⟩, -⟩, -⟩, -⟩, -⟩ := hwf
    exact hwidth
  have hrow : a / s.cfg.displayW < s.cfg.displayH / 8 := by
    rw [Nat.div_lt_iff_lt_mul hpos, Nat.mul_comm]
    exact ha
  have hline : (8 * (a / s.cfg.displayW) + k) / 8 = a / s.cfg.displayW ∧ (8 * (a / s.cfg.displayW) + k) % 8 = k := by omega
  have hplace : a / s.cfg.displayW * s.cfg.displayW + a % s.cfg.displayW = a := Nat.div_add_mod' a _
  have hpixel := hpixels (a % s.cfg.displayW) (8 * (a / s.cfg.displayW) + k) (Nat.mod_lt _ hpos) (by omega)
  rwa [State.pixel, State.pixel, hcfg, hline.1, hline.2, hplace] at hpixel

/-- Settles O57: the second drawing inverts the pixels that the first one inverted. -/
theorem invertTwiceRestores : Obligations.InvertTwiceRestores := by
  intro x y addr frame mode s t hcfg hbegin hinited hbad hpd hinvert hlist a
  have h : Ready s := ⟨hbegin, hinited, hcfg, hbad, hpd⟩
  obtain ⟨v, hfirst, -, hrest⟩ := runList_cons_some hlist
  obtain ⟨hsecond, -⟩ := runList_one_some hrest
  obtain ⟨u, ubody, rfl, udrawing, ubetween⟩ := h.exec_drawbitmap hfirst
  have hready := h.drawn udrawing ubetween
  have hready' : Ready (u.respond 0) := ⟨hready.canBegin, hready.inited, hready.wf, hready.bad, hready.pd⟩
  obtain ⟨w, wbody, rfl, wdrawing, -⟩ := hready'.exec_drawbitmap hsecond
  have hwcfg : w.cfg = s.cfg := wdrawing.cfg.trans udrawing.cfg
  by_cases ha : a < s.cfg.fbBytes
  · refine read_fb_of_pixels (t := w) hwcfg hcfg (fun px py hpx hpy => ?_) ha
    have hucfg : (u.respond 0).cfg = s.cfg := udrawing.cfg
    rw [hready'.drawBitmap_painted wbody (by rw [hucfg]; exact hpx) (by rw [hucfg]; exact hpy)]
    exact udrawing.pixelAfterDraw x y addr frame mode px py hinvert (h.drawBitmap_painted ubody hpx hpy)
  · have hout : s.cfg.fbBytes ≤ a := Nat.le_of_not_lt ha
    exact (wdrawing.outside a (by rw [State.respond_cfg, udrawing.cfg]; exact hout)).trans (udrawing.outside a hout)

end Sys2Proof.Machine
end
